-- ==== Sys2Proof/Word.lean ====
section
/-! DEFINITION. Sys2Proof/Word.lean: the Word type of rule R5 and the four widths of rule R4.

A Word is a fixed-width SIGNED INTEGER (R5), and every rule of the spec is written over
mathematical integers (R6), so a Word is an `Int`: the model writes the type `Int`, and which
integers are Words of a width is said by `XLen.holds` (DESIGN CHOICE, log entry 7).
The width XLEN is a construction parameter (R4, decision D1), carried as plain data.
The wrapping arithmetic stands in Machine/Arith.lean. -/

namespace Sys2Proof

/-- One byte of program memory (R6: a byte is 8 bits). -/
abbrev Byte := BitVec 8

/-- The Word widths the spec allows (R4: XLEN is one of 8, 16, 32, 64). -/
inductive XLen where
  | x8
  | x16
  | x32
  | x64
deriving DecidableEq, Repr, Inhabited

/-- XLEN in bits (R4). -/
def XLen.bits : XLen → Nat
  | .x8 => 8
  | .x16 => 16
  | .x32 => 32
  | .x64 => 64

/-- `2^(XLEN-1)`, the half range of a Word (R5). -/
def XLen.half : XLen → Int
  | .x8 => 128
  | .x16 => 32768
  | .x32 => 2147483648
  | .x64 => 9223372036854775808

/-- `WORD_MIN = -2^(XLEN-1)` (R5). -/
abbrev XLen.wordMin (x : XLen) : Int := -x.half

/-- `WORD_MAX = 2^(XLEN-1) - 1` (R5). -/
abbrev XLen.wordMax (x : XLen) : Int := x.half - 1

/-- The integer `a` is a Word of width `x`: `WORD_MIN ≤ a ≤ WORD_MAX` (R5). -/
abbrev XLen.holds (x : XLen) (a : Int) : Prop := x.wordMin ≤ a ∧ a ≤ x.wordMax

end Sys2Proof
end

