-- ==== Sys2Proof/Machine/Arith.lean ====
section
/-! DEFINITION. Sys2Proof/Machine/Arith.lean: the operations of the Word type (00_scope.md rules R5, R7, R8). -/

namespace Sys2Proof.Machine

/-- The Word congruent to `a` modulo `2^XLEN` (R5). -/
def wrap (x : XLen) (a : Int) : Int := (a + x.half) % (2 * x.half) - x.half

/-- Wraparound addition (R5). -/
def wadd (x : XLen) (a b : Int) : Int := wrap x (a + b)

/-- Wraparound subtraction (R5). -/
def wsub (x : XLen) (a b : Int) : Int := wrap x (a - b)

/-- The sign test: zero is non-negative (R5, R8). -/
def neg (a : Int) : Bool := a < 0

/-- `nonneg(a) = a >= 0` (R8). -/
def nonneg (a : Int) : Bool := 0 ≤ a

/-- Bitwise complement, which equals `-a - 1` (R5). -/
def wnot (a : Int) : Int := -a - 1

/-- The unsigned bit pattern of a Word (R5). -/
def bits (x : XLen) (a : Int) : Int := if 0 ≤ a then a else a + 2 * x.half

/-- A slot index cast to Word (R162, decision D18): exact, since NBUS ≤ 2^(XLEN-1). -/
def busIndexWord (x : XLen) (b : Nat) : Int := wrap x b

end Sys2Proof.Machine
end

