-- ==== Sys2Proof/Machine/Flags.lean ====
section
/-! DEFINITION. Sys2Proof/Machine/Flags.lean: the flag functions of 42_arithmetic.md rule R131. -/

namespace Sys2Proof.Machine

/-- What an ALU operation gives: the result and the two flags (R131). -/
structure Alu where
  result : Int
  overflow : Bool
  carry : Bool
deriving DecidableEq, Repr

/-- `addflags(a, b)` (R131). `carry` is NOT the unsigned carry-out (R138, conflict C3). -/
def addFlags (x : XLen) (a b : Int) : Alu :=
  let r := wadd x a b
  { result := r
    overflow := neg a == neg b && neg r != neg a
    carry := neg a && neg b && nonneg r }

/-- `incflags(v)` (R131; `inc(WORD_MAX)` leaves `carry` false, conflict C1). -/
def incFlags (x : XLen) (v : Int) : Alu :=
  let r := wadd x v 1
  { result := r
    overflow := nonneg v && neg r
    carry := r == 0 }

/-- `decflags(v)` (R131): `carry` means that no borrow occurred. -/
def decFlags (x : XLen) (v : Int) : Alu :=
  let r := wsub x v 1
  { result := r
    overflow := neg v && nonneg r
    carry := v != 0 }

end Sys2Proof.Machine
end

