-- ==== Sys2Proof/Machine/Types.lean ====
section
/-! DEFINITION. Sys2Proof/Machine/Types.lean: the plain-data types the state is made of
(10_state.md, 45_bus_protocol.md, 60_exceptions.md, 70_reset_and_hazards.md). -/

namespace Sys2Proof.Machine

/-! ## Registers and frames -/

/-- The four data counters (R22); they have no aliases and no hardwired values. -/
structure DataCounters where
  dc0 : Int
  dc1 : Int
  dc2 : Int
  dc3 : Int
deriving DecidableEq, Repr, Inhabited

/-- A call frame, the snapshot restored by `ret` (R32). -/
structure Frame where
  pc : Int
  dcs : DataCounters
  interrupt : Bool
deriving DecidableEq, Repr, Inhabited

/-- A Permission (R28, R170): 8 bits of privilege, larger is more authority, and the 32-bit
originating address. -/
structure Permission where
  privilege : BitVec 8
  address : BitVec 32
deriving DecidableEq, Repr, Inhabited

/-- What an honoured kill discards (R206): the execution context of the killed program. -/
structure Context where
  program : List Byte
  pc : Int
  dcs : DataCounters
  carry : Bool
  overflow : Bool
  interrupt : Bool
  dstack : List Int
  cstack : List Frame
deriving DecidableEq, Repr, Inhabited

/-! ## The bus -/

/-- The four message kinds (R173). -/
inductive ChannelKind where
  | stream
  | incept
  | send
  | kill
deriving DecidableEq, Repr

/-- The envelope of every bus message (R171): the sender's stamp, the receiver-side index of the
link the message arrived on, and the payload. -/
structure Com (α : Type) where
  permission : Permission
  bus : Nat
  data : α
deriving DecidableEq, Repr

/-- The move-only byte source of an incept payload (R177), with the environment's outcome of
draining it (R36; log entry 16): the bytes it delivers, and whether it errors before it is fully drained
(R204). -/
structure ByteSource where
  bytes : List Byte
  errors : Bool
deriving DecidableEq, Repr

/-- The payload of an incept message (R173): the target permission and the program's byte source. -/
structure InceptPayload where
  target : Permission
  source : ByteSource
deriving DecidableEq, Repr

/-- An inbound link: at most one pending offer of each kind (R35, R174). -/
structure Link where
  stream : Option (Com (List Byte))
  incept : Option (Com InceptPayload)
  send : Option (Com Int)
  kill : Option (Com Unit)
deriving DecidableEq, Repr

/-- A link on which nothing is offered. -/
def Link.idle : Link := { stream := none, incept := none, send := none, kill := none }

/-- A bus slot (R34). `sender` names the outbound endpoint toward the peer: wiring, fixed at
construction and used by no documented instruction (R185, R186); its form, a number, is a DESIGN CHOICE
(log entry 20). -/
structure BusSlot where
  sender : Nat
  selected : Bool
  enabled : Bool
deriving DecidableEq, Repr

/-- The environment's `closed[K]` indications, one for each kind (R35, R188). -/
structure Closed where
  stream : Bool
  incept : Bool
  send : Bool
  kill : Bool
deriving DecidableEq, Repr

/-! ## Errors and phases -/

/-- The error kinds (R220): the source's six and the spec's own `fetchOutOfRange` (R227). -/
inductive ErrorKind where
  | stackUnderflow
  | callStackUnderflow
  | indexOutOfRange
  | channelClosed
  | streamReadFailure
  | addressOutOfRange
  | fetchOutOfRange
deriving DecidableEq, Repr

/-- The value an error records (R221 to R227). -/
inductive Recorded where
  | nothing
  | address (a : Int)
  | position (pos : Nat)
  | channel (k : ChannelKind)
deriving DecidableEq, Repr

/-- An error as it is raised (R7, `raise <Kind>(info)`). -/
structure Raise where
  kind : ErrorKind
  value : Recorded
deriving DecidableEq, Repr

/-- The terminal error report the owner receives: `(code, pc, value)` (R234, R256). -/
structure Report where
  code : Nat
  pc : Int
  value : Recorded
deriving DecidableEq, Repr

/-- The phases of the reinception machine (R27, R201). -/
inductive Phase where
  | awaitingInception
  | loading
  | running
  | faulted (cause : ErrorKind) (pc : Int)
deriving DecidableEq, Repr

/-! ## Construction parameters (R4) -/

/-- KILL_DISCARD_MODE (R4, R206, R207). -/
inductive KillDiscardMode where
  | reset
  | havoc
deriving DecidableEq, Repr

/-- Whether an access predicate is the one the spec decides (R182, R183) or is left open (R181):
an open predicate is a free function of the two permissions. -/
inductive AccessRule where
  | decided
  | leftOpen
deriving DecidableEq, Repr

/-- The parameters fixed when the core is constructed (R4). NBUS is the length of the wiring. -/
structure Params where
  xlen : XLen
  memSize : Nat
  killDiscard : KillDiscardMode
  authKill : AccessRule
  authIncept : AccessRule
deriving DecidableEq, Repr

/-! ## The environment's moves -/

/-- What the owner may preload while the core is not Running (R254). -/
inductive Preload where
  | data (a : Nat) (v : Int)
  | dstack (vs : List Int)
  | cstack (fs : List Frame)
  | dc (k : Fin 4) (v : Int)
  | carry (v : Bool)
  | overflow (v : Bool)
  | interrupt (v : Bool)
  | conveyor (i : Nat) (v : Int)
  | selected (b : Nat) (v : Bool)
  | enabled (b : Nat) (v : Bool)
deriving DecidableEq, Repr

/-- A move of the owner or of a peer (R256, R186). `construct` is `State.construct`, and the terminal
error report is received in `State.reports`. -/
inductive EnvMove where
  | offerStream (b : Nat) (stamp : Permission) (bytes : List Byte)
  | offerIncept (b : Nat) (stamp : Permission) (target : Permission) (source : ByteSource)
  | offerSend (b : Nat) (stamp : Permission) (value : Int)
  | offerKill (b : Nat) (stamp : Permission)
  | close (k : ChannelKind)
  | preload (p : Preload)
  | observe
  | ownerReset
deriving DecidableEq, Repr

/-- Whose turn a step is (R200, R264): the core's own step, or one move of the environment. -/
inductive Turn where
  | core
  | environment (m : EnvMove)
deriving DecidableEq, Repr

end Sys2Proof.Machine
end

