-- ==== Sys2Proof/Config.lean ====
section
/-! DEFINITION. Sys2Proof/Config.lean: what construction fixes (00_scope.md rule R4) and the free
values (93_implementation_defined.md entries U2 to U6).

A free value is an `opaque` constant with no body: no proof can learn what it is. -/

namespace Sys2Proof.Config

open Sys2Proof.Machine

/-- NDC, the number of data counters (R4, FIXED). -/
abbrev ndc : Nat := 4

/-- CONVEYOR_LEN, the slots of the conveyor (R4, R33, FIXED). -/
abbrev conveyorLen : Nat := 16

/-- RET_RESUME_OFFSET, added by `ret` to the restored pc (R4, R151, FIXED by decision D5). -/
abbrev retResumeOffset : Int := 0

/-- What a word of data memory reads as before anything writes it: R30 and R38, "zero-initialized". -/
abbrev unwrittenWord : Int := 0

/-- The parameters of `State.reset`. DESIGN CHOICE (log entry 1): R4 leaves XLEN and MEM_SIZE OPEN;
these are the values of the spec's own vectors (95_test_vectors.md, XLEN = 8, memory size 4), with
the decided defaults of the three other parameters. No statement rests on them. -/
def defaultParams : Params :=
  { xlen := .x8, memSize := 4, killDiscard := .reset, authKill := .decided, authIncept := .decided }

/-- The wiring of `State.reset`: two links. DESIGN CHOICE (log entry 1): R4 leaves NBUS OPEN. -/
def defaultWiring : List Nat := [0, 1]

/-- Free value (U2): which of several acceptable offers is taken at draw `n`. Log entry 2. -/
opaque freeChoice : Nat → Nat

/-- Free value (U6): how many bytes a failed Loading leaves in `program` at draw `n`. Log entry 3. -/
opaque freePrefixLength : Nat → Nat

/-- Free value (U5, R207): what an honoured kill leaves behind under `havoc` at draw `n`. Log entry 4. -/
opaque havocContext : Nat → Context

/-- Free predicate (U3): AUTH_KILL where it is left open. Log entry 5. -/
opaque openAuthKill : Permission → Permission → Bool

/-- Free predicate (U4): AUTH_INCEPT where it is left open. Log entry 5. -/
opaque openAuthIncept : Permission → Permission → Bool

end Sys2Proof.Config
end

