-- ==== Sys2Proof/Machine/State.lean ====
section
/-! DEFINITION. Sys2Proof/Machine/State.lean: the state of one CORE (10_state.md rules R20 to R38),
the reasons a step can stop, and the state after reset (R38, R250). -/

namespace Sys2Proof.Machine

/-- Data memory (R30, R60): pairs of a word address and the Word it holds, in one canonical form
(`Memory.wf`). The unit of an entry is the Word, the smallest unit the spec lets anything address
(R64, R65; log entry 6). -/
abbrev Memory := List (Nat × Int)

/-- The complete state of one CORE (R20), the links it is wired to (R35), and the model's own
fields `reports`, `schedule` and `draws`. -/
structure State where
  /-- The construction parameters (R4, R36); no step writes them. -/
  cfg : Params
  /-- Program counter (R21). -/
  pc : Int
  /-- The four data counters (R22). -/
  dcs : DataCounters
  /-- Carry flag (R23). -/
  carry : Bool
  /-- Overflow flag (R24). -/
  overflow : Bool
  /-- Pending-interrupt flag (R25). -/
  interrupt : Bool
  /-- The dispatch loop runs (R26). -/
  running : Bool
  /-- Phase of the reinception machine (R27). -/
  phase : Phase
  /-- Current execution authority (R28). -/
  permission : Permission
  /-- Program memory, byte `i` at index `i` (R29). -/
  program : List Byte
  /-- Data memory (R30). -/
  data : Memory
  /-- Data stack, bottom first, top last (R31). -/
  dstack : List Int
  /-- Call stack, top last (R32). -/
  cstack : List Frame
  /-- Conveyor, index 0 is the front (R33). -/
  conveyor : List Int
  /-- Bus slots (R34). -/
  buses : List BusSlot
  /-- Inbound links with their pending offers, link `b` paired with slot `b` (R35, R37 (b)). -/
  links : List Link
  /-- `closed[K]` (R35, R188). -/
  closed : Closed
  /-- MODEL's own: the error reports the owner has received, oldest first (R234, R256; log entry 12). -/
  reports : List Report
  /-- MODEL's own: whose turn the next steps are (R264); when it is empty the core moves
  (DESIGN CHOICE, log entry 9). -/
  schedule : List Turn
  /-- MODEL's own: the counter of free values drawn (DESIGN CHOICE, log entry 13). -/
  draws : Nat
deriving DecidableEq, Repr

/-- Why a step has no next state. -/
inductive Fault where
  /-- The core's turn comes while `phase` is Loading. Raised by `coreTurn` only. R203 makes the whole
  inception one atomic step, so no run meets it (the phase is entered and left inside that step):
  safe, the model stops where the spec describes no machine (DEDUCED, log entry 11). -/
  | midInception
deriving DecidableEq, Repr

/-- Why the model gives a step no meaning. -/
inductive Refusal where
  /-- `exec` meets an instruction that has no meaning yet. No arm raises it now. Safe. -/
  | notModelled (mnemonic : String)
  /-- The schedule holds a move outside the table of 70_reset_and_hazards.md rule R256 (an offer on an
  occupied slot, a preload of a Running core, a value that is no Word, ...). Raised by
  `environmentTurn` only. U17: "refuse: the model says nothing of such a system". Safe (DEDUCED,
  log entry 14). -/
  | outsideOwnerTable
deriving DecidableEq, Repr

/-- The state a construction leaves (R38, R250), for every parameter value and every wiring (one
endpoint name for each link, so NBUS is the length). UNVERIFIED (log entry 18): R38 marks all values but
the phase, the zeroed data and the conveyor's length as the spec's own decision D10. -/
def State.construct (cfg : Params) (wiring : List Nat) : State :=
  { cfg := cfg
    pc := 0
    dcs := { dc0 := 0, dc1 := 0, dc2 := 0, dc3 := 0 }
    carry := false
    overflow := false
    interrupt := false
    running := false
    phase := .awaitingInception
    permission := { privilege := 0, address := 0 }
    program := []
    data := []
    dstack := []
    cstack := []
    conveyor := List.replicate Config.conveyorLen 0
    buses := wiring.map fun h => { sender := h, selected := false, enabled := false }
    links := wiring.map fun _ => Link.idle
    closed := { stream := false, incept := false, send := false, kill := false }
    reports := []
    schedule := []
    draws := 0 }

/-- The machine right after reset (R38): construction with the parameters of log entry 1. -/
def State.reset : State := State.construct Config.defaultParams Config.defaultWiring

end Sys2Proof.Machine
end

