-- ==== Sys2Proof/Machine/Ops.lean ====
section
/-! DEFINITION. Sys2Proof/Machine/Ops.lean: the named operations over the state: data memory and
program memory (20_memory.md), the three storage engines (40_stack_engines.md), the links
(45_bus_protocol.md), and taking an error (60_exceptions.md rule R234) with the owner's Reset, the
only way back from it (70_reset_and_hazards.md rule R250). -/

namespace Sys2Proof.Machine

/-! ## Data memory -/

/-- The Word at an address: its entry, or the zero of R30 where nothing is listed. -/
def Memory.read : Memory → Nat → Int
  | [], _ => Config.unwrittenWord
  | (b, w) :: rest, a => if a = b then w else Memory.read rest a

/-- Store a Word and keep the canonical form: storing what an unlisted address reads as removes the
entry. -/
def Memory.write : Memory → Nat → Int → Memory
  | [], a, v => if v = Config.unwrittenWord then [] else [(a, v)]
  | (b, w) :: rest, a, v =>
    if a < b then
      if v = Config.unwrittenWord then (b, w) :: rest else (a, v) :: (b, w) :: rest
    else if a = b then
      if v = Config.unwrittenWord then rest else (a, v) :: rest
    else (b, w) :: Memory.write rest a v

/-- The canonical form: addresses strictly rising, and no entry equal to what an unlisted address
reads as. -/
abbrev Memory.wf (m : Memory) : Prop :=
  m.Pairwise (fun c d => c.1 < d.1) ∧ ∀ c ∈ m, c.2 ≠ Config.unwrittenWord

/-- `MemRead(addr, 1)` (R62): the range check, then the Word; no side effect (R66). -/
def memRead (s : State) (addr : Int) : Except Raise Int :=
  if 0 ≤ addr ∧ addr < (s.cfg.memSize : Int) then .ok (s.data.read addr.toNat)
  else .error { kind := .addressOutOfRange, value := .address addr }

/-- `MemWrite(addr, 1, v)` for an address below MEM_SIZE (R63): the owner preload's means of setting
`data`; no instruction performs it. -/
def memWrite (a : Nat) (v : Int) (s : State) : State := { s with data := s.data.write a v }

/-! ## Program memory -/

/-- `ProgRead(i)` (R61): the byte at a signed index, or `FetchOutOfRange(i)`. -/
def progRead (s : State) (i : Int) : Except Raise Byte :=
  if 0 ≤ i then
    match s.program[i.toNat]? with
    | some op => .ok op
    | none => .error { kind := .fetchOutOfRange, value := .address i }
  else .error { kind := .fetchOutOfRange, value := .address i }

/-! ## The program counter -/

/-- `pc <- wadd(pc, 1)`, the end of every instruction that completes, other than `ret` (R210). -/
def advance (s : State) : State := { s with pc := wadd s.cfg.xlen s.pc 1 }

/-! ## DataStack -/

/-- `push(w)` (R100). No documented opcode performs it on its own. -/
def push (w : Int) (s : State) : State := { s with dstack := s.dstack ++ [w] }

/-- The top of the data stack, or `StackUnderflow` (R101, R221). -/
def top (s : State) : Except Raise Int :=
  match s.dstack.getLast? with
  | some v => .ok v
  | none => .error { kind := .stackUnderflow, value := .nothing }

/-- The data stack with its top element replaced; the depth does not change (R101). -/
def replaceTop (r : Int) (s : State) : State := { s with dstack := s.dstack.dropLast ++ [r] }

/-- `pop_transform(f)` (R101): when the stack is empty, or `f` raises, nothing changes. -/
def popTransform (f : Int → Except Raise Int) (s : State) : Except Raise State :=
  match top s with
  | .error e => .error e
  | .ok v =>
    match f v with
    | .error e => .error e
    | .ok r => .ok (replaceTop r s)

/-- `rotate(pos)` (R102, conflict C6): moves the element `pos` slots below the top to the top. No
documented opcode performs it. -/
def rotate (pos : Nat) (s : State) : Except Raise State :=
  let d := s.dstack.length
  if pos + 1 ≥ d then .error { kind := .indexOutOfRange, value := .position pos }
  else
    let i := d - 1 - pos
    .ok { s with dstack := s.dstack.take i ++ s.dstack.drop (i + 1) ++ (s.dstack.drop i).take 1 }

/-- `copy(pos)` (R103): duplicates the element `pos` slots below the top onto the top. No documented
opcode performs it. -/
def copy (pos : Nat) (s : State) : Except Raise State :=
  let d := s.dstack.length
  if pos + 1 ≥ d then .error { kind := .indexOutOfRange, value := .position pos }
  else .ok { s with dstack := s.dstack ++ (s.dstack.drop (d - 1 - pos)).take 1 }

/-! ## CallStack -/

/-- `push_frame(pc, dcs, interrupt)` (R106). No documented opcode performs it. -/
def pushFrame (pc : Int) (dcs : DataCounters) (interrupt : Bool) (s : State) : State :=
  { s with cstack := s.cstack ++ [{ pc := pc, dcs := dcs, interrupt := interrupt }] }

/-- `pop_frame()` (R107): the top frame and the state without it, or `CallStackUnderflow`. -/
def popFrame (s : State) : Except Raise (Frame × State) :=
  match s.cstack.getLast? with
  | some fr => .ok (fr, { s with cstack := s.cstack.dropLast })
  | none => .error { kind := .callStackUnderflow, value := .nothing }

/-! ## Conveyor -/

/-- `remove_rear()` (R108): the oldest entry is dropped. -/
def removeRear (s : State) : State := { s with conveyor := s.conveyor.dropLast }

/-- `insert_front(value)` (R109). -/
def insertFront (v : Int) (s : State) : State := { s with conveyor := v :: s.conveyor }

/-- `deliver(value, bus_index)` (R110, conflict C2): afterwards the front slot holds the value and the
next slot the bus index. -/
def deliver (value busIndex : Int) (s : State) : State :=
  insertFront value (insertFront busIndex (removeRear (removeRear s)))

/-! ## Bus slots and links -/

/-- NBUS, the number of bus slots (R4, R34). -/
def State.nbus (s : State) : Nat := s.buses.length

/-- Slot `b`'s `enabled` flag; false where there is no such slot. -/
def busEnabled (s : State) (b : Nat) : Bool := (s.buses[b]?).any (·.enabled)

/-- The offers of link `b`; none where there is no such link. -/
def linkAt (s : State) (b : Nat) : Link := (s.links[b]?).getD Link.idle

/-- The state with link `b`'s offers changed. -/
def updateLink (b : Nat) (f : Link → Link) (s : State) : State :=
  { s with links := s.links.modify b f }

/-- The pending offers that `pick` selects, each with the index of its link, in index order. -/
def offersWhere {α : Type} (s : State) (pick : Nat → Option α) : List (Nat × α) :=
  (List.range s.nbus).filterMap fun b => (pick b).map fun m => (b, m)

/-- The pending incept offers (R203). -/
def inceptOffers (s : State) : List (Nat × Com InceptPayload) :=
  offersWhere s fun b => (linkAt s b).incept

/-- The pending kill offers (R205). -/
def killOffers (s : State) : List (Nat × Com Unit) :=
  offersWhere s fun b => (linkAt s b).kill

/-- The pending `send` offers on enabled buses: the set `E` of R162. -/
def acceptableSends (s : State) : List (Nat × Com Int) :=
  offersWhere s fun b => if busEnabled s b then (linkAt s b).send else none

/-- `choose x in S` (R7, U2): the only element of a single set, and otherwise the element a free
value points at, so that any element may be the one. -/
def choose {α : Type} (draw : Nat) : List α → Option α
  | [] => none
  | [x] => some x
  | x :: y :: rest => (x :: y :: rest)[Config.freeChoice draw % (rest.length + 2)]?

/-- One more free value has been drawn. -/
def countDraw (s : State) : State := { s with draws := s.draws + 1 }

/-- Acceptance of link `b`'s incept offer: the slot empties and the sender is unblocked (R174). -/
def acceptIncept (b : Nat) (s : State) : State :=
  countDraw (updateLink b (fun l => { l with incept := none }) s)

/-- Acceptance of link `b`'s kill offer (R174). -/
def acceptKill (b : Nat) (s : State) : State :=
  countDraw (updateLink b (fun l => { l with kill := none }) s)

/-- Acceptance of link `b`'s `send` offer (R174). -/
def acceptSend (b : Nat) (s : State) : State :=
  countDraw (updateLink b (fun l => { l with send := none }) s)

/-! ## Taking an error, and the way back from it -/

/-- The cause codes 1 to 7 (R221 to R227, decision D9). -/
def errorCode : ErrorKind → Nat
  | .stackUnderflow => 1
  | .callStackUnderflow => 2
  | .indexOutOfRange => 3
  | .channelClosed => 4
  | .streamReadFailure => 5
  | .addressOutOfRange => 6
  | .fetchOutOfRange => 7

/-- Fault entry (R234): `running` falls, the phase records the cause and the pc, the owner receives
`(code, pc, value)`; nothing else changes (R235). -/
def takeFault (e : Raise) (s : State) : State :=
  { s with
    running := false
    phase := .faulted e.kind s.pc
    reports := s.reports ++ [{ code := errorCode e.kind, pc := s.pc, value := e.value }] }

/-- The owner's Reset of an existing core (R250): every item of core state as construction leaves it;
the links, their closed indications and the wiring stay. There is no other return from a fault
(R211, R236). What the owner has received and the model's schedule and counter stay too. -/
def ownerReset (s : State) : State :=
  { State.construct s.cfg (s.buses.map (·.sender)) with
    links := s.links
    closed := s.closed
    reports := s.reports
    schedule := s.schedule
    draws := s.draws }

/-! ## How a meaning ends -/

/-- The end of an instruction that may raise: it completes and the pc moves past its byte (R210), or
the error is taken from the state BEFORE the instruction (R235, precise faults). -/
def conclude (s : State) (r : Except Raise State) : Host.Outcome State Fault Refusal :=
  match r with
  | .ok t => .next (advance t)
  | .error e => .next (takeFault e s)

end Sys2Proof.Machine
end

