-- ==== Sys2Proof/Machine/Operands.lean ====
section
/-! DEFINITION. Sys2Proof/Machine/Operands.lean: the operand forms: the data counter a `select` field
names, the three effective-address forms of 41_memory_read.md rule R122, and the top of the data
stack as the operand and destination of an ALU operation. -/

namespace Sys2Proof.Machine

/-- `dcs[k]` (R22, R82). -/
def DataCounters.get (d : DataCounters) : Fin 4 → Int
  | 0 => d.dc0
  | 1 => d.dc1
  | 2 => d.dc2
  | 3 => d.dc3

/-- `dcs[k] <- v`: the owner preload's write of one counter (R254). -/
def DataCounters.set (d : DataCounters) (k : Fin 4) (v : Int) : DataCounters :=
  match k with
  | 0 => { d with dc0 := v }
  | 1 => { d with dc1 := v }
  | 2 => { d with dc2 := v }
  | 3 => { d with dc3 := v }

/-- Base plus stack offset, `ea = wadd(dcs[k], v)` (R122, R120; it wraps before the range check,
decision D6). -/
def eaIndexed (s : State) (k : Fin 4) (v : Int) : Int := wadd s.cfg.xlen (s.dcs.get k) v

/-- Stack direct, `ea = v` (R122, R121). -/
def eaStackDirect (v : Int) : Int := v

/-- Base direct, `ea = dcs[k]` (R122, R132). -/
def eaBaseDirect (s : State) (k : Fin 4) : Int := s.dcs.get k

/-- The two flags written together, as every flag-writing instruction does (R131). -/
def writeFlags (overflow carry : Bool) (s : State) : State :=
  { s with overflow := overflow, carry := carry }

/-- A flag-writing transform of the stack top (R132 to R136): nothing changes where it raises. -/
def transformTop (f : Int → Except Raise Alu) (s : State) : Except Raise State :=
  match top s with
  | .error e => .error e
  | .ok v =>
    match f v with
    | .error e => .error e
    | .ok a => .ok (writeFlags a.overflow a.carry (replaceTop a.result s))

/-- The `inc` transform of the stack top (R133, R135). -/
def incTop (s : State) : Except Raise State := transformTop (fun v => .ok (incFlags s.cfg.xlen v)) s

/-- The `dec` transform of the stack top (R134, R136). -/
def decTop (s : State) : Except Raise State := transformTop (fun v => .ok (decFlags s.cfg.xlen v)) s

end Sys2Proof.Machine
end

