-- ==== Sys2Proof/Machine/Arithmetic.lean ====
section
/-! DEFINITION. Sys2Proof/Machine/Arithmetic.lean: the arithmetic and flag instructions (42_arithmetic.md). -/

namespace Sys2Proof.Machine

/-- `add<k>` (R132): the top becomes `data[dcs[k]] + top`; memory is not written. The stack is checked
before the address (R74). -/
def execAdd (k : Fin 4) (s : State) : Host.Outcome State Fault Refusal :=
  conclude s <| transformTop (fun v =>
    match memRead s (eaBaseDirect s k) with
    | .error e => .error e
    | .ok a => .ok (addFlags s.cfg.xlen a v)) s

/-- `inc` (R133). -/
def execInc (s : State) : Host.Outcome State Fault Refusal := conclude s (incTop s)

/-- `dec` (R134). -/
def execDec (s : State) : Host.Outcome State Fault Refusal := conclude s (decTop s)

/-- `carry` (R135): the `inc` transform if the flag is set, else both flags cleared and the stack
untouched. -/
def execCarry (s : State) : Host.Outcome State Fault Refusal :=
  conclude s (if s.carry then incTop s else .ok (writeFlags false false s))

/-- `borrow` (R136): no change of the stack if the flag is set (no borrow is outstanding), else the
`dec` transform. -/
def execBorrow (s : State) : Host.Outcome State Fault Refusal :=
  conclude s (if s.carry then .ok (writeFlags false true s) else decTop s)

/-- `inv` (R137): the bitwise complement of the top; flags unwritten. -/
def execInv (s : State) : Host.Outcome State Fault Refusal :=
  conclude s (popTransform (fun v => .ok (wnot v)) s)

end Sys2Proof.Machine
end

