-- ==== Sys2Proof/Machine/Control.lean ====
section
/-! DEFINITION. Sys2Proof/Machine/Control.lean: the control instructions (43_control.md). -/

namespace Sys2Proof.Machine

/-- Nothing but the advance of the pc (R150, R152). -/
def noOperation (s : State) : Host.Outcome State Fault Refusal := conclude s (.ok s)

/-- `flush` (R150): no operation. -/
def execFlush (s : State) : Host.Outcome State Fault Refusal := noOperation s

/-- The context of a popped frame restored: all four data counters, the pc with RET_RESUME_OFFSET
added, and `interrupt` set if the frame's is (R151). -/
def restoreFrame (fr : Frame) (s : State) : State :=
  { s with
    dcs := fr.dcs
    interrupt := s.interrupt || fr.interrupt
    pc := wadd s.cfg.xlen fr.pc Config.retResumeOffset }

/-- `ret` (R151): the pc is the frame's, with no advance after it. -/
def execRet (s : State) : Host.Outcome State Fault Refusal :=
  match popFrame s with
  | .error e => .next (takeFault e s)
  | .ok (fr, t) => .next (restoreFrame fr t)

/-- Byte 0x13 (R152): no operation. -/
def execUndefined13 (s : State) : Host.Outcome State Fault Refusal := noOperation s

/-- Bytes 0x14 to 0x17 (R152): no operation. -/
def execUndefined14to17 (s : State) : Host.Outcome State Fault Refusal := noOperation s

/-- Bytes 0x18 to 0x1F (R152): no operation. -/
def execUndefined18to1F (s : State) : Host.Outcome State Fault Refusal := noOperation s

/-- Bytes 0x20 to 0x3F (R152): no operation. -/
def execUndefined20to3F (s : State) : Host.Outcome State Fault Refusal := noOperation s

/-- Bytes 0x40 to 0x7F (R152): no operation. -/
def execUndefined40to7F (s : State) : Host.Outcome State Fault Refusal := noOperation s

/-- Bytes 0x80 to 0xFF (R152): no operation. -/
def execUndefined80toFF (s : State) : Host.Outcome State Fault Refusal := noOperation s

end Sys2Proof.Machine
end

