-- ==== Sys2Proof/Machine/Interrupt.lean ====
section
/-! DEFINITION. Sys2Proof/Machine/Interrupt.lean: the interrupt control instructions (44_interrupt_control.md). -/

namespace Sys2Proof.Machine

/-- Every slot's `enabled` flag gains its `selected` flag (R160). -/
def enableSelected (s : State) : State :=
  { s with buses := s.buses.map fun b => { b with enabled := b.enabled || b.selected } }

/-- Every slot's `enabled` flag cleared (R161). -/
def disableAll (s : State) : State :=
  { s with buses := s.buses.map fun b => { b with enabled := false } }

/-- `ien` (R160). -/
def execIen (s : State) : Host.Outcome State Fault Refusal := conclude s (.ok (enableSelected s))

/-- `idi` (R161). -/
def execIdi (s : State) : Host.Outcome State Fault Refusal := conclude s (.ok (disableAll s))

/-- `recv` (R162): one acceptable `send` offer is taken into the conveyor; with none, the core waits
with nothing changed (R163), or raises ChannelClosed where the send channel is closed. -/
def execRecv (s : State) : Host.Outcome State Fault Refusal :=
  match choose s.draws (acceptableSends s) with
  | some (b, m) => conclude s (.ok (deliver m.data (busIndexWord s.cfg.xlen b) (acceptSend b s)))
  | none =>
    if s.closed.send then conclude s (.error { kind := .channelClosed, value := .channel .send })
    else .next s

end Sys2Proof.Machine
end

