-- ==== Sys2Proof/Machine/MemoryRead.lean ====
section
/-! DEFINITION. Sys2Proof/Machine/MemoryRead.lean: the memory-read instructions (41_memory_read.md). -/

namespace Sys2Proof.Machine

/-- `rread<k>` (R120): the top becomes `data[dcs[k] + top]`; flags unwritten. -/
def execRread (k : Fin 4) (s : State) : Host.Outcome State Fault Refusal :=
  conclude s (popTransform (fun v => memRead s (eaIndexed s k v)) s)

/-- `reads` (R121): the top becomes `data[top]`; flags unwritten. -/
def execReads (s : State) : Host.Outcome State Fault Refusal :=
  conclude s (popTransform (fun v => memRead s (eaStackDirect v)) s)

end Sys2Proof.Machine
end

