-- ==== Sys2Proof/Syntax.lean ====
section
/-! DEFINITION. Sys2Proof/Syntax.lean: the instruction set, one constructor for each row of
spec/opcode_table.json (30_encoding.md rule R85). -/

namespace Sys2Proof

/-- An instruction of Core0 (R85). The only operand field of the instruction set is `select`, the
index of a data counter (R82, R84). A row of undefined bytes keeps the byte that was fetched: the
byte has no effect (R152), and the encoder gives it back (DESIGN CHOICE, log entry 26). -/
inductive Instr where
  /-- `rread<k>`, bytes 0x00 to 0x03 (R120). -/
  | rread (k : Fin 4)
  /-- `add<k>`, bytes 0x04 to 0x07 (R132). -/
  | add (k : Fin 4)
  /-- `inc`, byte 0x08 (R133). -/
  | inc
  /-- `dec`, byte 0x09 (R134). -/
  | dec
  /-- `carry`, byte 0x0A (R135). -/
  | carry
  /-- `borrow`, byte 0x0B (R136). -/
  | borrow
  /-- `inv`, byte 0x0C (R137). -/
  | inv
  /-- `flush`, byte 0x0D (R150). -/
  | flush
  /-- `reads`, byte 0x0E (R121). -/
  | reads
  /-- `ret`, byte 0x0F (R151). -/
  | ret
  /-- `ien`, byte 0x10 (R160). -/
  | ien
  /-- `idi`, byte 0x11 (R161). -/
  | idi
  /-- `recv`, byte 0x12 (R162). -/
  | recv
  /-- The undefined byte 0x13 (R152). -/
  | undefined13
  /-- An undefined byte 0x14 to 0x17 (R152). -/
  | undefined14to17 (byte : Byte)
  /-- An undefined byte 0x18 to 0x1F (R152). -/
  | undefined18to1F (byte : Byte)
  /-- An undefined byte 0x20 to 0x3F (R152). -/
  | undefined20to3F (byte : Byte)
  /-- An undefined byte 0x40 to 0x7F (R152). -/
  | undefined40to7F (byte : Byte)
  /-- An undefined byte 0x80 to 0xFF (R152). -/
  | undefined80toFF (byte : Byte)
deriving DecidableEq, Repr

end Sys2Proof
end

