-- ==== Sys2Proof/Machine/Dispatch.lean ====
section
/-! DEFINITION. Sys2Proof/Machine/Dispatch.lean: one arm for each row of the opcode table (46_reinception.md rule R208). -/

namespace Sys2Proof.Machine

def exec (i : Instr) (s : State) : Host.Outcome State Fault Refusal :=
  match i with
  -- 41_memory_read.md, 42_arithmetic.md
  | .rread k => Sys2Proof.Machine.execRread k s
  | .add k => Sys2Proof.Machine.execAdd k s
  | .inc => Sys2Proof.Machine.execInc s
  | .dec => Sys2Proof.Machine.execDec s
  | .carry => Sys2Proof.Machine.execCarry s
  | .borrow => Sys2Proof.Machine.execBorrow s
  | .inv => Sys2Proof.Machine.execInv s
  -- 43_control.md, 41_memory_read.md, 44_interrupt_control.md
  | .flush => Sys2Proof.Machine.execFlush s
  | .reads => Sys2Proof.Machine.execReads s
  | .ret => Sys2Proof.Machine.execRet s
  | .ien => Sys2Proof.Machine.execIen s
  | .idi => Sys2Proof.Machine.execIdi s
  | .recv => Sys2Proof.Machine.execRecv s
  -- the undefined bytes, 43_control.md rule R152
  | .undefined13 => Sys2Proof.Machine.execUndefined13 s
  | .undefined14to17 _ => Sys2Proof.Machine.execUndefined14to17 s
  | .undefined18to1F _ => Sys2Proof.Machine.execUndefined18to1F s
  | .undefined20to3F _ => Sys2Proof.Machine.execUndefined20to3F s
  | .undefined40to7F _ => Sys2Proof.Machine.execUndefined40to7F s
  | .undefined80toFF _ => Sys2Proof.Machine.execUndefined80toFF s

end Sys2Proof.Machine
end

