-- ==== Sys2Proof/WellFormed.lean ====
section
/-! DEFINITION. Sys2Proof/WellFormed.lean: which terms of `Instr` are instructions of the opcode map.

A data-counter index is 0 to 3 by its type (10_state.md rule R37 (c)). What is left to check is that
the byte an undefined row carries is a byte of that row (30_encoding.md rules R85, R86). -/

namespace Sys2Proof

/-- The byte lies in the row whose fixed bits are `mask` and whose value there is `pattern`. -/
def Byte.inRow (byte mask pattern : Byte) : Bool := byte &&& mask == pattern

/-- An instruction of the opcode map (R85). -/
def Instr.wellFormed : Instr → Bool
  | .rread _ => true
  | .add _ => true
  | .inc => true
  | .dec => true
  | .carry => true
  | .borrow => true
  | .inv => true
  | .flush => true
  | .reads => true
  | .ret => true
  | .ien => true
  | .idi => true
  | .recv => true
  | .undefined13 => true
  | .undefined14to17 byte => Byte.inRow byte 0xFC 0x14
  | .undefined18to1F byte => Byte.inRow byte 0xF8 0x18
  | .undefined20to3F byte => Byte.inRow byte 0xE0 0x20
  | .undefined40to7F byte => Byte.inRow byte 0xC0 0x40
  | .undefined80toFF byte => Byte.inRow byte 0x80 0x80

end Sys2Proof
end

