-- ==== Sys2Proof/Decode.lean ====
section
/-! DEFINITION. Sys2Proof/Decode.lean: decoding and encoding (30_encoding.md rules R80 to R87).

Every instruction is one byte (R80) and every byte is an instruction (R83, R86): the decoder refuses
only the absence of a byte. -/

namespace Sys2Proof

/-- Why the decoder gives no instruction. -/
inductive DecodeRefusal where
  /-- There is no byte to decode. Raised by `decode` on the empty sequence only: no byte value is
  refused (R86). Safe: the machine decodes only a byte it has fetched. -/
  | noByte
deriving DecidableEq, Repr

/-- The `select` field, `op[1:0]` (R82). -/
def selectField (op : Byte) : Fin 4 := Fin.ofNat 4 (op.extractLsb 1 0).toNat

/-- The row of undefined bytes that holds `op`, for `0x13 ≤ op` (R85, R86). -/
def decodeUndefined (op : Byte) : Instr :=
  if op.toNat ≤ 0x13 then .undefined13
  else if op.toNat ≤ 0x17 then .undefined14to17 op
  else if op.toNat ≤ 0x1F then .undefined18to1F op
  else if op.toNat ≤ 0x3F then .undefined20to3F op
  else if op.toNat ≤ 0x7F then .undefined40to7F op
  else .undefined80toFF op

/-- Format Z: the whole byte selects the instruction (R81, R85). -/
def decodeZ (op : Byte) : Instr :=
  match op.toNat with
  | 0x08 => .inc
  | 0x09 => .dec
  | 0x0A => .carry
  | 0x0B => .borrow
  | 0x0C => .inv
  | 0x0D => .flush
  | 0x0E => .reads
  | 0x0F => .ret
  | 0x10 => .ien
  | 0x11 => .idi
  | 0x12 => .recv
  | _ => decodeUndefined op

/-- Format S: bit 2 tells `rread` from `add`, bits 1:0 are `select` (R81, R82). -/
def decodeS (op : Byte) : Instr :=
  if op.getLsbD 2 then .add (selectField op) else .rread (selectField op)

/-- The decode procedure of R83: total on all 256 byte values, never faulting. -/
def decodeByte (op : Byte) : Instr :=
  if op.extractLsb 7 3 = 0 then decodeS op else decodeZ op

/-- The first instruction of a byte sequence and the bytes that follow it (R80: one byte). -/
def decode : List Byte → Except DecodeRefusal (Instr × List Byte)
  | [] => .error .noByte
  | op :: rest => .ok (decodeByte op, rest)

/-- The byte of an instruction (R81, R82, R85). -/
def encodeByte : Instr → Byte
  | .rread k => BitVec.ofNat 8 (0x00 + k.val)
  | .add k => BitVec.ofNat 8 (0x04 + k.val)
  | .inc => 0x08
  | .dec => 0x09
  | .carry => 0x0A
  | .borrow => 0x0B
  | .inv => 0x0C
  | .flush => 0x0D
  | .reads => 0x0E
  | .ret => 0x0F
  | .ien => 0x10
  | .idi => 0x11
  | .recv => 0x12
  | .undefined13 => 0x13
  | .undefined14to17 byte => byte
  | .undefined18to1F byte => byte
  | .undefined20to3F byte => byte
  | .undefined40to7F byte => byte
  | .undefined80toFF byte => byte

/-- The byte sequence of an instruction: exactly one byte (R80). -/
def encode (i : Instr) : List Byte := [encodeByte i]

/-- The encoding of a program is the sequence of its opcode bytes in order (R89). -/
def encodeProgram (p : List Instr) : List Byte := p.map encodeByte

/-- The single instruction byte of an opcode-table word of `nbits` bits: bit 0 of the table's
numbering is bit 0 of the byte, and a bit above `nbits` is 0. -/
def tableByte (nbits w : Nat) : Byte := BitVec.ofNat 8 (w % 2 ^ nbits)

/-- The instruction the decoder reads from an opcode-table word. -/
def decodeTableWord (nbits w : Nat) : Option Instr :=
  match decode [tableByte nbits w] with
  | .ok (i, _) => some i
  | .error _ => none

end Sys2Proof
end

