-- ==== Sys2Proof/Machine/Fetch.lean ====
section
/-! DEFINITION. Sys2Proof/Machine/Fetch.lean: instruction fetch (46_reinception.md rule R209,
30_encoding.md rule R91), and the placing of one instruction where the next fetch finds it. -/

namespace Sys2Proof.Machine

/-- The instruction at the pc: `ProgRead(pc)`, decoded afresh; no side effect (R91, R209). -/
def fetch (s : State) : Except Raise Instr :=
  match progRead s s.pc with
  | .ok op => .ok (decodeByte op)
  | .error e => .error e

/-- Everything it takes that the very next step runs the instruction of byte `op`: the core is
Running, no kill is pending at the poll, the turn is the core's, and `op` stands at the pc. A core
that is not Running, or whose pc is outside its program, gets the program `[op]` and pc 0, as an
inception would leave it (R203; log entry 8). -/
def placeInstruction (op : Byte) (s : State) : State :=
  let inside : Bool := s.phase == .running && 0 ≤ s.pc && s.pc < (s.program.length : Int)
  { s with
    running := true
    phase := .running
    pc := if inside then s.pc else 0
    program := if inside then s.program.set s.pc.toNat op else [op]
    links := s.links.map fun l => { l with kill := none }
    schedule :=
      match s.schedule with
      | .environment m :: rest => .core :: .environment m :: rest
      | turns => turns }

end Sys2Proof.Machine
end

