-- ==== Sys2Proof/Machine/Environment.lean ====
section
/-! DEFINITION. Sys2Proof/Machine/Environment.lean: the moves of the owner and of the peers
(70_reset_and_hazards.md rules R250 to R256, 45_bus_protocol.md rules R174, R186, R188).

A move gives a state, or none where it is outside the table of R256 (U17). -/

namespace Sys2Proof.Machine

/-- A sender presents an offer (R174, R186): only on a link that exists, in an empty slot, on a channel
that has not been indicated closed (R188). -/
def offer (b : Nat) (empty : Link → Bool) (closed : Bool) (put : Link → Link) (s : State) :
    Option State :=
  if decide (b < s.nbus) && empty (linkAt s b) && !closed then some (updateLink b put s) else none

/-- Every integer of a frame is a Word. -/
abbrev frameHolds (x : XLen) (fr : Frame) : Prop :=
  x.holds fr.pc ∧ x.holds fr.dcs.dc0 ∧ x.holds fr.dcs.dc1 ∧ x.holds fr.dcs.dc2 ∧ x.holds fr.dcs.dc3

/-- `t` where the guard holds, and no state where it does not. -/
def allowed (guard : Bool) (t : State) : Option State := if guard then some t else none

/-- The owner's preload (R254), of values that are Words, at places that exist (DEDUCED, log entries
14 and 15). -/
def preload (p : Preload) (s : State) : Option State :=
  let x := s.cfg.xlen
  match p with
  | .data a v => allowed (decide (a < s.cfg.memSize) && decide (x.holds v)) (memWrite a v s)
  | .dstack vs => allowed (vs.all fun v => decide (x.holds v)) { s with dstack := vs }
  | .cstack fs => allowed (fs.all fun fr => decide (frameHolds x fr)) { s with cstack := fs }
  | .dc k v => allowed (decide (x.holds v)) { s with dcs := s.dcs.set k v }
  | .carry v => some { s with carry := v }
  | .overflow v => some { s with overflow := v }
  | .interrupt v => some { s with interrupt := v }
  | .conveyor i v =>
    allowed (decide (i < Config.conveyorLen) && decide (x.holds v)) { s with conveyor := s.conveyor.set i v }
  | .selected b v =>
    allowed (decide (b < s.nbus)) { s with buses := s.buses.modify b fun slot => { slot with selected := v } }
  | .enabled b v =>
    allowed (decide (b < s.nbus)) { s with buses := s.buses.modify b fun slot => { slot with enabled := v } }

/-- No offer of kind `k` is pending on a link. -/
def Link.emptyOf (k : ChannelKind) (l : Link) : Bool :=
  match k with
  | .stream => l.stream.isNone
  | .incept => l.incept.isNone
  | .send => l.send.isNone
  | .kill => l.kill.isNone

/-- `closed[k]` becomes true (R188). -/
def Closed.indicate (k : ChannelKind) (c : Closed) : Closed :=
  match k with
  | .stream => { c with stream := true }
  | .incept => { c with incept := true }
  | .send => { c with send := true }
  | .kill => { c with kill := true }

/-- `closed[k]` (R35). -/
def Closed.get (k : ChannelKind) (c : Closed) : Bool :=
  match k with
  | .stream => c.stream
  | .incept => c.incept
  | .send => c.send
  | .kill => c.kill

/-- The core is Running at a `recv` that finds nothing to do (R163). -/
def waitingInRecv (s : State) : Bool :=
  s.phase == .running && (acceptableSends s).isEmpty && !s.closed.send &&
    match fetch s with
    | .ok i => i == .recv
    | .error _ => false

/-- The core is in a phase in which the owner may observe it (R256). -/
def observable (s : State) : Bool :=
  match s.phase with
  | .awaitingInception => true
  | .faulted _ _ => true
  | .loading => false
  | .running => waitingInRecv s

/-- One move of the environment (R256): a message carries the index of the link it is offered on
(R171) and whatever stamp its sender presents (R172); a Word payload is a Word. -/
def environmentMove (m : EnvMove) (s : State) : Option State :=
  match m with
  | .offerStream b stamp bytes =>
    offer b (Link.emptyOf .stream) s.closed.stream
      (fun l => { l with stream := some { permission := stamp, bus := b, data := bytes } }) s
  | .offerIncept b stamp target source =>
    offer b (Link.emptyOf .incept) s.closed.incept
      (fun l => { l with incept := some { permission := stamp, bus := b, data := { target := target, source := source } } }) s
  | .offerSend b stamp value =>
    if s.cfg.xlen.holds value then
      offer b (Link.emptyOf .send) s.closed.send
        (fun l => { l with send := some { permission := stamp, bus := b, data := value } }) s
    else none
  | .offerKill b stamp =>
    offer b (Link.emptyOf .kill) s.closed.kill
      (fun l => { l with kill := some { permission := stamp, bus := b, data := () } }) s
  | .close k => allowed (s.links.all (Link.emptyOf k)) { s with closed := s.closed.indicate k }
  | .preload p => if s.phase = .running then none else preload p s
  | .observe => allowed (observable s) s
  | .ownerReset => some (ownerReset s)

/-- The environment's turn: its move, or the refusal of a system outside the table (U17). -/
def environmentTurn (m : EnvMove) (s : State) : Host.Outcome State Fault Refusal :=
  match environmentMove m s with
  | some t => .next t
  | none => .refused .outsideOwnerTable

end Sys2Proof.Machine
end

