-- ==== Sys2Proof/Machine/Reinception.lean ====
section
/-! DEFINITION. Sys2Proof/Machine/Reinception.lean: the reinception machine (46_reinception.md) and
the permission-based access check (45_bus_protocol.md rules R181 to R183). -/

namespace Sys2Proof.Machine

/-! ## Access checks -/

/-- `AUTH_INCEPT(m, t)` (R182): a sender cannot grant more privilege than it holds. A free predicate
where the construction leaves the rule open (U4). -/
def authIncept (cfg : Params) (m t : Permission) : Bool :=
  match cfg.authIncept with
  | .decided => t.privilege.toNat ≤ m.privilege.toNat
  | .leftOpen => Config.openAuthIncept m t

/-- `AUTH_KILL(m, c)` (R183): a peer may kill what runs with no more authority than its own. A free
predicate where the construction leaves the rule open (U3). -/
def authKill (cfg : Params) (m c : Permission) : Bool :=
  match cfg.authKill with
  | .decided => m.privilege.toNat ≥ c.privilege.toNat
  | .leftOpen => Config.openAuthKill m c

/-! ## Inception -/

/-- The entry to Loading: the target permission is adopted and the program buffer cleared (R203). -/
def beginLoading (target : Permission) (s : State) : State :=
  { s with phase := .loading, permission := target, program := [] }

/-- The byte source drained into `program`: a complete one starts the core at index 0 (R203); one that
errors leaves some prefix, a free value, and StreamReadFailure is taken (R204). -/
def load (source : ByteSource) (s : State) : State :=
  if source.errors then
    takeFault { kind := .streamReadFailure, value := .nothing }
      { s with program := source.bytes.take (Config.freePrefixLength s.draws) }
  else { s with program := source.bytes, pc := 0, running := true, phase := .running }

/-- The acceptance of one incept offer (R203): the rendezvous completes; an unauthorised message then
changes nothing else (R181). -/
def receiveIncept (b : Nat) (m : Com InceptPayload) (s : State) : State :=
  if authIncept s.cfg m.permission m.data.target then
    load m.data.source (beginLoading m.data.target (acceptIncept b s))
  else acceptIncept b s

/-- The core's step in AwaitingInception (R202): an incept offer is accepted; with none, a closed
incept channel raises ChannelClosed, and otherwise the core waits with nothing changed. -/
def awaitTurn (s : State) : State :=
  match choose s.draws (inceptOffers s) with
  | some (b, m) => receiveIncept b m s
  | none =>
    if s.closed.incept then takeFault { kind := .channelClosed, value := .channel .incept } s else s

/-! ## Kill -/

/-- The cleared execution context of R206. -/
def clearedContext : Context :=
  { program := []
    pc := 0
    dcs := { dc0 := 0, dc1 := 0, dc2 := 0, dc3 := 0 }
    carry := false
    overflow := false
    interrupt := false
    dstack := []
    cstack := [] }

/-- Four integers read as Words of width `x`. -/
def wrapCounters (x : XLen) (d : DataCounters) : DataCounters :=
  { dc0 := wrap x d.dc0, dc1 := wrap x d.dc1, dc2 := wrap x d.dc2, dc3 := wrap x d.dc3 }

/-- A frame's integers read as Words of width `x`. -/
def wrapFrame (x : XLen) (fr : Frame) : Frame :=
  { pc := wrap x fr.pc, dcs := wrapCounters x fr.dcs, interrupt := fr.interrupt }

/-- A context's integers read as Words of width `x`, so that a free context holds values of its type. -/
def wrapContext (x : XLen) (c : Context) : Context :=
  { program := c.program
    pc := wrap x c.pc
    dcs := wrapCounters x c.dcs
    carry := c.carry
    overflow := c.overflow
    interrupt := c.interrupt
    dstack := c.dstack.map (wrap x)
    cstack := c.cstack.map (wrapFrame x) }

/-- What takes the place of the discarded context (R206, R207, KILL_DISCARD_MODE). -/
def discardedContext (s : State) : Context :=
  match s.cfg.killDiscard with
  | .reset => clearedContext
  | .havoc => wrapContext s.cfg.xlen (Config.havocContext s.draws)

/-- An execution context put in the place of the core's own. -/
def installContext (c : Context) (s : State) : State :=
  { s with
    program := c.program
    pc := c.pc
    dcs := c.dcs
    carry := c.carry
    overflow := c.overflow
    interrupt := c.interrupt
    dstack := c.dstack
    cstack := c.cstack }

/-- The effect of an honoured kill (R206): `data`, `conveyor`, the bus flags, `permission` and every
pending offer are retained. -/
def honourKill (s : State) : State :=
  installContext (discardedContext s) { s with running := false, phase := .awaitingInception }

/-- What the kill poll finds. -/
inductive KillPoll where
  /-- A kill was honoured: the cycle ends, nothing is fetched. -/
  | honoured (t : State)
  /-- No kill was pending, or an unauthorised one was consumed: the cycle continues from `t`. -/
  | proceed (t : State)
deriving DecidableEq, Repr

/-- The kill poll that begins every cycle (R205), those of a waiting `recv` included. -/
def killPoll (s : State) : KillPoll :=
  match choose s.draws (killOffers s) with
  | none => .proceed s
  | some (b, m) =>
    if authKill s.cfg m.permission s.permission then .honoured (honourKill (acceptKill b s))
    else .proceed (acceptKill b s)

end Sys2Proof.Machine
end

