-- ==== Sys2Proof/Machine/Cycle.lean ====
section
/-! DEFINITION. Sys2Proof/Machine/Cycle.lean: one cycle of the Running phase (46_reinception.md rule
R208), the core's turn in every phase (R200, R201), and whose turn a step is (R264). -/

namespace Sys2Proof.Machine

/-- The fetch and the instruction (R208, parts 2 to 4). -/
def runInstruction (s : State) : Host.Outcome State Fault Refusal :=
  match fetch s with
  | .error e => .next (takeFault e s)
  | .ok i => exec i s

/-- One cycle of the Running phase (R208): the kill poll, then at most one instruction. -/
def cycle (s : State) : Host.Outcome State Fault Refusal :=
  match killPoll s with
  | .honoured t => .next t
  | .proceed t => runInstruction t

/-- The core's own step (R200). A Faulted core executes nothing and accepts no offer (R211); Loading
is entered and left inside one step (R203), so no turn begins in it. -/
def coreTurn (s : State) : Host.Outcome State Fault Refusal :=
  match s.phase with
  | .awaitingInception => .next (awaitTurn s)
  | .loading => .fault .midInception
  | .running => cycle s
  | .faulted _ _ => .next s

/-- One turn: the head of the schedule says whose; with no schedule left the core moves. -/
def turn (s : State) : Host.Outcome State Fault Refusal :=
  match s.schedule with
  | [] => coreTurn s
  | .core :: rest => coreTurn { s with schedule := rest }
  | .environment m :: rest => environmentTurn m { s with schedule := rest }

end Sys2Proof.Machine
end

