-- ==== Sys2Proof/Machine/Step.lean ====
section
/-! DEFINITION. Sys2Proof/Machine/Step.lean: the step function, and where it fetches its next instruction. -/

namespace Sys2Proof.Machine

/-- One step of the machine: one turn (R200, R264). -/
def step (s : State) : Host.Outcome State Fault Refusal := turn s

/-- The instruction of an opcode-table word, placed so that the very next step fetches and runs it. -/
def State.withFetchWord (s : State) (nbits w : Nat) : State := placeInstruction (tableByte nbits w) s

end Sys2Proof.Machine
end

