-- ==== Sys2Proof/Safety.lean ====
section
/-! DEFINITION. Sys2Proof/Safety.lean: what a legal state is (the invariants of 10_state.md rule R37
and of the rules that bound each item of state), what a safe run is, and the mark that
93_implementation_defined.md entry U1 asks for. -/

namespace Sys2Proof.Machine

/-! ## The invariant -/

/-- Every counter holds a Word (R22). -/
abbrev countersHold (x : XLen) (d : DataCounters) : Prop :=
  x.holds d.dc0 ∧ x.holds d.dc1 ∧ x.holds d.dc2 ∧ x.holds d.dc3

/-- Every offer of a link carries the link's index as its `bus` (R171, decision D33). -/
structure Link.Tagged (b : Nat) (l : Link) : Prop where
  stream : ∀ m, l.stream = some m → m.bus = b
  incept : ∀ m, l.incept = some m → m.bus = b
  send : ∀ m, l.send = some m → m.bus = b
  kill : ∀ m, l.kill = some m → m.bus = b

/-- The invariant of the machine: what holds in every reachable state (R37) and what the types of the
spec's state table say (R20), since a Word is an integer within the range of XLEN (R5). -/
structure Inv (s : State) : Prop where
  /-- `pc` is a Word (R21). -/
  pcWord : s.cfg.xlen.holds s.pc
  /-- The data counters are Words (R22). -/
  dcsWords : countersHold s.cfg.xlen s.dcs
  /-- The data stack holds Words (R31). -/
  dstackWords : ∀ v ∈ s.dstack, s.cfg.xlen.holds v
  /-- Frames hold Words (R32). -/
  cstackWords : ∀ fr ∈ s.cstack, s.cfg.xlen.holds fr.pc ∧ countersHold s.cfg.xlen fr.dcs
  /-- R37 (a): the conveyor has exactly 16 slots. -/
  conveyorLength : s.conveyor.length = 16
  /-- The conveyor holds Words (R33). -/
  conveyorWords : ∀ v ∈ s.conveyor, s.cfg.xlen.holds v
  /-- R37 (b): inbound link `b` is paired with slot `b`. -/
  linksPaired : s.links.length = s.buses.length
  /-- R37 (d): the dispatch loop runs exactly in the Running phase. -/
  runningIff : s.running = true ↔ s.phase = .running
  /-- R203: Loading is entered and left inside one step. -/
  notLoading : s.phase ≠ .loading
  /-- A Faulted core keeps the pc of the faulting instruction (R234, R254). -/
  faultedPc : ∀ c p, s.phase = .faulted c p → p = s.pc
  /-- The data memory is in its canonical form. -/
  dataForm : Memory.wf s.data
  /-- R37 (e): no cell at or above MEM_SIZE. -/
  dataBound : ∀ c ∈ s.data, c.1 < s.cfg.memSize
  /-- Data memory holds Words (R30). -/
  dataWords : ∀ c ∈ s.data, s.cfg.xlen.holds c.2
  /-- Every pending message is tagged with its link (R171). -/
  offersTagged : ∀ b, Link.Tagged b (linkAt s b)
  /-- A pending `send` payload is a Word (R173). -/
  sendWords : ∀ b m, (linkAt s b).send = some m → s.cfg.xlen.holds m.data
  /-- `closed[K]` only where no offer of kind K is pending (R35, R188). -/
  closedEmpty : ∀ k b, s.closed.get k = true → (linkAt s b).emptyOf k = true

/-- DESIGN CHOICE (log entry 19): a premise, not enforced. NBUS ≤ 2^(XLEN-1), the bound that makes a bus index a Word (R4, R252, decision D18). -/
abbrev busBound (s : State) : Prop := (s.nbus : Int) ≤ s.cfg.xlen.half

/-! ## Programs of the documented set -/

/-- The instruction is one of the documented bytes 0x00 to 0x12 (U1, R85). -/
def documented (i : Instr) : Bool := (encodeByte i).toNat ≤ 0x12

/-- Every byte of the program is a documented opcode (U1). -/
def documentedProgram (p : List Byte) : Bool := p.all fun op => documented (decodeByte op)

/-- The mark of U1: the next instruction the core fetches is an undefined byte. -/
def executesUndefined (s : State) : Bool :=
  s.phase == .running &&
    match fetch s with
    | .ok i => !documented i
    | .error _ => false

/-! ## Which instruction can raise what -/

/-- The errors an instruction can raise (60_exceptions.md rule R228). -/
def mayRaise : Instr → List ErrorKind
  | .rread _ => [.stackUnderflow, .addressOutOfRange]
  | .add _ => [.stackUnderflow, .addressOutOfRange]
  | .inc => [.stackUnderflow]
  | .dec => [.stackUnderflow]
  | .carry => [.stackUnderflow]
  | .borrow => [.stackUnderflow]
  | .inv => [.stackUnderflow]
  | .flush => []
  | .reads => [.stackUnderflow, .addressOutOfRange]
  | .ret => [.callStackUnderflow]
  | .ien => []
  | .idi => []
  | .recv => [.channelClosed]
  | .undefined13 => []
  | .undefined14to17 _ => []
  | .undefined18to1F _ => []
  | .undefined20to3F _ => []
  | .undefined40to7F _ => []
  | .undefined80toFF _ => []

/-- The instructions that write `carry` and `overflow` (R39). -/
def writesFlags : Instr → Bool
  | .rread _ => false
  | .add _ => true
  | .inc => true
  | .dec => true
  | .carry => true
  | .borrow => true
  | .inv => false
  | .flush => false
  | .reads => false
  | .ret => false
  | .ien => false
  | .idi => false
  | .recv => false
  | .undefined13 => false
  | .undefined14to17 _ => false
  | .undefined18to1F _ => false
  | .undefined20to3F _ => false
  | .undefined40to7F _ => false
  | .undefined80toFF _ => false

/-- The instructions that act on the top of the data stack (R39). -/
def usesStackTop : Instr → Bool
  | .rread _ => true
  | .add _ => true
  | .inc => true
  | .dec => true
  | .carry => true
  | .borrow => true
  | .inv => true
  | .flush => false
  | .reads => true
  | .ret => false
  | .ien => false
  | .idi => false
  | .recv => false
  | .undefined13 => false
  | .undefined14to17 _ => false
  | .undefined18to1F _ => false
  | .undefined20to3F _ => false
  | .undefined40to7F _ => false
  | .undefined80toFF _ => false

/-! ## Safe runs -/

/-- The core has stopped on an error (R211). -/
def isFaulted (s : State) : Bool :=
  match s.phase with
  | .faulted _ _ => true
  | _ => false

/-- `k` steps from `s` each answer a next state, and none is Faulted: the run meets no error (R220),
no move outside the owner's table (U17) and no stop of the model. -/
def safeFor : Nat → State → Bool
  | 0, s => !isFaulted s
  | k + 1, s =>
    !isFaulted s &&
      match step s with
      | .next t => safeFor k t
      | .fault _ => false
      | .refused _ => false

/-- The turn is the core's own (R200): the schedule is used up or names the core next. -/
def coreMovesNext (s : State) : Bool :=
  match s.schedule with
  | [] => true
  | .core :: _ => true
  | .environment _ :: _ => false

/-- The state in which the turn is taken: the head of the schedule is spent. -/
def spendTurn (s : State) : State := { s with schedule := s.schedule.tail }

/-- What an environment turn leaves that changes link `b` alone: its offers become `l`, every other link
and the rest of the state stay, and the schedule goes on with `rest`. -/
def linkBecomes (s t : State) (rest : List Turn) (b : Nat) (l : Link) : Prop :=
  t = { s with links := t.links, schedule := rest } ∧ linkAt t b = l ∧
    ∀ c, c ≠ b → linkAt t c = linkAt s c

end Sys2Proof.Machine
end

