-- ==== Sys2Proof/Certificates/Slice0/Obligations.lean ====
section
/-! DEFINITION. Sys2Proof/Certificates/Slice0/Obligations.lean: the statements for the provers.

"(D<n>)" in a docstring names a decision of 92_eei_decisions.md: a choice the spec marks as its own, so
a statement resting on one is 'derived'. In every statement about an instruction the advance of the pc is
D2, the place of `select` is D3, and that an error is taken precisely is D7 and D8. An error is written as `takeFault e s`, the model's `raise`;
what that state is, is stated once, by `FaultEntryRecordsAndReports`. -/

open Sys2Proof Sys2Proof.Machine

/-! ## Encoding -/

/-- The whole documented map of R85, byte by byte, and both ends of every row of undefined bytes (that
`select` is bits 1:0 is D3; that the undefined rows keep their byte is log entry 26). -/
def Obligations.BytesOfTheMapDecode : Prop :=
  [0x00, 0x01, 0x02, 0x03, 0x04, 0x05, 0x06, 0x07, 0x08, 0x09, 0x0A, 0x0B, 0x0C, 0x0D, 0x0E, 0x0F,
    0x10, 0x11, 0x12].map decodeByte =
    [.rread 0, .rread 1, .rread 2, .rread 3, .add 0, .add 1, .add 2, .add 3, .inc, .dec, .carry,
      .borrow, .inv, .flush, .reads, .ret, .ien, .idi, .recv] ∧
  [0x13, 0x14, 0x17, 0x18, 0x1F, 0x20, 0x3F, 0x40, 0x7F, 0x80, 0xFF].map decodeByte =
    [.undefined13, .undefined14to17 0x14, .undefined14to17 0x17, .undefined18to1F 0x18,
      .undefined18to1F 0x1F, .undefined20to3F 0x20, .undefined20to3F 0x3F, .undefined40to7F 0x40,
      .undefined40to7F 0x7F, .undefined80toFF 0x80, .undefined80toFF 0xFF]

/-- Decoding an encoded well-formed instruction gives it back, with the bytes after it untouched; and
every byte is the encoding of the one well-formed instruction it decodes to. -/
def Obligations.DecodeAndEncodeAgree : Prop :=
  (∀ (i : Instr) (rest : List Byte), i.wellFormed = true →
    decode (encode i ++ rest) = .ok (i, rest)) ∧
  ∀ (op : Byte) (rest : List Byte), ∃ i : Instr, i.wellFormed = true ∧
    decode (op :: rest) = .ok (i, rest) ∧ encode i = [op]

/-! ## Words and flags -/

/-- The Word type and its operations (R5). -/
def Obligations.WordOperationsAreTwosComplement : Prop :=
  ∀ x : XLen,
    x.wordMin = -2 ^ (x.bits - 1) ∧ x.wordMax = 2 ^ (x.bits - 1) - 1 ∧
    (∀ a b : Int, x.holds (wadd x a b) ∧ (2 : Int) ^ x.bits ∣ a + b - wadd x a b) ∧
    (∀ a b : Int, x.holds (wsub x a b) ∧ (2 : Int) ^ x.bits ∣ a - b - wsub x a b) ∧
    (∀ a : Int, neg a = true ↔ a < 0) ∧
    (∀ a : Int, x.holds a → bits x a = if 0 ≤ a then a else a + 2 ^ x.bits) ∧
    ∀ a : Int, x.holds a → x.holds (wnot a) ∧ wnot a = -a - 1 ∧
      ∀ i < x.bits, (bits x (wnot a)).toNat.testBit i = !(bits x a).toNat.testBit i

/-- The flags of `inc` and `dec` against the reference arithmetic, for every Word of every width (R141). -/
def Obligations.IncDecFlagsMatchReferenceArithmetic : Prop :=
  ∀ (x : XLen) (v : Int), x.holds v →
    incFlags x v =
      { result := if v = x.wordMax then x.wordMin else v + 1
        overflow := decide (v = x.wordMax)
        carry := decide (v = -1) } ∧
    decFlags x v =
      { result := if v = x.wordMin then x.wordMax else v - 1
        overflow := decide (v = x.wordMin)
        carry := decide (v ≠ 0) }

/-- The flags of `add<k>`: `overflow` is signed overflow, and `carry` is overflow below WORD_MIN, not
the unsigned carry-out (R138, which the spec derives; conflict C3). -/
def Obligations.AddFlagsAreSignedOverflow : Prop :=
  ∀ (x : XLen) (a v : Int), x.holds a → x.holds v →
    (addFlags x a v).overflow = decide (¬ x.holds (a + v)) ∧
    (addFlags x a v).carry = decide (a + v < x.wordMin) ∧
    (addFlags x a v).result =
      if a + v < x.wordMin then a + v + 2 ^ x.bits
      else if x.wordMax < a + v then a + v - 2 ^ x.bits else a + v

/-! ## Memory-read instructions -/

/-- `rread<k>` completes: the top becomes the Word at `wadd(dcs[k], top)` and nothing else changes but
the pc. The wrap before the range check and the untouched flags are decisions (D6, D25). -/
def Obligations.RreadReadsBasePlusOffset : Prop :=
  ∀ (s : State) (k : Fin 4) (rest : List Int) (v : Int),
    s.dstack = rest ++ [v] →
    0 ≤ wadd s.cfg.xlen (s.dcs.get k) v → wadd s.cfg.xlen (s.dcs.get k) v < s.cfg.memSize →
    exec (.rread k) s = .next { s with
      dstack := rest ++ [s.data.read (wadd s.cfg.xlen (s.dcs.get k) v).toNat]
      pc := wadd s.cfg.xlen s.pc 1 }

/-- `reads` completes: the top becomes the Word it addresses; the untouched flags are D25. -/
def Obligations.ReadsReadsTheTopAsAddress : Prop :=
  ∀ (s : State) (rest : List Int) (v : Int),
    s.dstack = rest ++ [v] → 0 ≤ v → v < s.cfg.memSize →
    exec .reads s = .next { s with
      dstack := rest ++ [s.data.read v.toNat]
      pc := wadd s.cfg.xlen s.pc 1 }

/-- Where `rread<k>`, `reads` and `add<k>` trap: the empty stack first, whatever the address, and then
the address out of range (R74, R226; the order is D34, the precise fault D7). -/
def Obligations.MemoryReadersTrapStackFirst : Prop :=
  ∀ (s : State) (k : Fin 4),
    (s.dstack = [] →
      exec (.rread k) s = .next (takeFault ⟨.stackUnderflow, .nothing⟩ s) ∧
      exec .reads s = .next (takeFault ⟨.stackUnderflow, .nothing⟩ s) ∧
      exec (.add k) s = .next (takeFault ⟨.stackUnderflow, .nothing⟩ s)) ∧
    ∀ (rest : List Int) (v : Int), s.dstack = rest ++ [v] →
      (wadd s.cfg.xlen (s.dcs.get k) v < 0 ∨ s.cfg.memSize ≤ wadd s.cfg.xlen (s.dcs.get k) v →
        exec (.rread k) s = .next (takeFault
          ⟨.addressOutOfRange, .address (wadd s.cfg.xlen (s.dcs.get k) v)⟩ s)) ∧
      (v < 0 ∨ s.cfg.memSize ≤ v →
        exec .reads s = .next (takeFault ⟨.addressOutOfRange, .address v⟩ s)) ∧
      (s.dcs.get k < 0 ∨ s.cfg.memSize ≤ s.dcs.get k →
        exec (.add k) s =
          .next (takeFault ⟨.addressOutOfRange, .address (s.dcs.get k)⟩ s))

/-! ## Arithmetic instructions -/

/-- `add<k>` (R132): encoding, result, flags, memory and counter untouched, and both errors. -/
def Obligations.AddAddsMemoryToTheTop : Prop :=
  ∀ (s : State) (k : Fin 4),
    decodeByte (BitVec.ofNat 8 (0x04 + k.val)) = .add k ∧
    (s.dstack = [] →
      exec (.add k) s = .next (takeFault ⟨.stackUnderflow, .nothing⟩ s)) ∧
    ∀ (rest : List Int) (v : Int), s.dstack = rest ++ [v] →
      (s.dcs.get k < 0 ∨ s.cfg.memSize ≤ s.dcs.get k →
        exec (.add k) s =
          .next (takeFault ⟨.addressOutOfRange, .address (s.dcs.get k)⟩ s)) ∧
      (0 ≤ s.dcs.get k → s.dcs.get k < s.cfg.memSize →
        ∀ a r, a = s.data.read (s.dcs.get k).toNat → r = wadd s.cfg.xlen a v →
          exec (.add k) s = .next { s with
            dstack := rest ++ [r]
            overflow := decide ((a < 0 ↔ v < 0) ∧ ¬ (r < 0 ↔ a < 0))
            carry := decide (a < 0 ∧ v < 0 ∧ 0 ≤ r)
            pc := wadd s.cfg.xlen s.pc 1 })

/-- `inc` (R133): encoding, result, flags and the error. -/
def Obligations.IncAddsOneToTheTop : Prop :=
  decodeByte 0x08 = .inc ∧
  ∀ s : State,
    (s.dstack = [] →
      exec .inc s = .next (takeFault ⟨.stackUnderflow, .nothing⟩ s)) ∧
    ∀ (rest : List Int) (v r : Int), s.dstack = rest ++ [v] → r = wadd s.cfg.xlen v 1 →
      exec .inc s = .next { s with
        dstack := rest ++ [r]
        overflow := decide (0 ≤ v ∧ r < 0)
        carry := decide (r = 0)
        pc := wadd s.cfg.xlen s.pc 1 }

/-- `dec` (R134): encoding, result, flags and the error. -/
def Obligations.DecSubtractsOneFromTheTop : Prop :=
  decodeByte 0x09 = .dec ∧
  ∀ s : State,
    (s.dstack = [] →
      exec .dec s = .next (takeFault ⟨.stackUnderflow, .nothing⟩ s)) ∧
    ∀ (rest : List Int) (v r : Int), s.dstack = rest ++ [v] → r = wsub s.cfg.xlen v 1 →
      exec .dec s = .next { s with
        dstack := rest ++ [r]
        overflow := decide (v < 0 ∧ 0 ≤ r)
        carry := decide (v ≠ 0)
        pc := wadd s.cfg.xlen s.pc 1 }

/-- `carry` in every state: with the flag set it does what `inc` does, its flags and its error included
(D24); with the flag clear it clears both flags, on any stack. -/
def Obligations.CarryPropagatesOrClears : Prop :=
  ∀ s : State,
    (s.carry = true → s.dstack = [] →
      exec .carry s = .next (takeFault ⟨.stackUnderflow, .nothing⟩ s)) ∧
    (s.carry = true → ∀ (rest : List Int) (v r : Int),
      s.dstack = rest ++ [v] → r = wadd s.cfg.xlen v 1 →
      exec .carry s = .next { s with
        dstack := rest ++ [r]
        overflow := decide (0 ≤ v ∧ r < 0)
        carry := decide (r = 0)
        pc := wadd s.cfg.xlen s.pc 1 }) ∧
    (s.carry = false →
      exec .carry s = .next { s with
        overflow := false
        carry := false
        pc := wadd s.cfg.xlen s.pc 1 })

/-- `borrow` in every state: with the flag set no borrow is outstanding, `overflow` is cleared and the
stack stays; with the flag clear it does what `dec` does, its flags and its error included (D24). -/
def Obligations.BorrowPropagatesOrKeeps : Prop :=
  ∀ s : State,
    (s.carry = true →
      exec .borrow s = .next { s with
        overflow := false
        carry := true
        pc := wadd s.cfg.xlen s.pc 1 }) ∧
    (s.carry = false → s.dstack = [] →
      exec .borrow s = .next (takeFault ⟨.stackUnderflow, .nothing⟩ s)) ∧
    (s.carry = false → ∀ (rest : List Int) (v r : Int),
      s.dstack = rest ++ [v] → r = wsub s.cfg.xlen v 1 →
      exec .borrow s = .next { s with
        dstack := rest ++ [r]
        overflow := decide (v < 0 ∧ 0 ≤ r)
        carry := decide (v ≠ 0)
        pc := wadd s.cfg.xlen s.pc 1 })

/-- `inv`: the complement of the top, or StackUnderflow; the untouched flags are D25. -/
def Obligations.InvComplementsTheTop : Prop :=
  ∀ s : State,
    (s.dstack = [] →
      exec .inv s = .next (takeFault ⟨.stackUnderflow, .nothing⟩ s)) ∧
    ∀ (rest : List Int) (v : Int), s.dstack = rest ++ [v] →
      exec .inv s = .next { s with
        dstack := rest ++ [-v - 1]
        pc := wadd s.cfg.xlen s.pc 1 }

/-! ## Control instructions -/

/-- `flush` (R150): in every state, the empty stacks included, only the pc changes. -/
def Obligations.FlushIsNoOperation : Prop :=
  decodeByte 0x0D = .flush ∧
  ∀ s : State, exec .flush s = .next { s with pc := wadd s.cfg.xlen s.pc 1 }

/-- Every byte 0x13 to 0xFF (R152): in every state only the pc changes; the same by constructor. -/
def Obligations.UndefinedBytesAreNoOperation : Prop :=
  ∀ s : State,
    (∀ op : Byte, 0x13 ≤ op.toNat →
      exec (decodeByte op) s = .next { s with pc := wadd s.cfg.xlen s.pc 1 }) ∧
    exec .undefined13 s = .next { s with pc := wadd s.cfg.xlen s.pc 1 } ∧
    ∀ op : Byte,
      exec (.undefined14to17 op) s = .next { s with pc := wadd s.cfg.xlen s.pc 1 } ∧
      exec (.undefined18to1F op) s = .next { s with pc := wadd s.cfg.xlen s.pc 1 } ∧
      exec (.undefined20to3F op) s = .next { s with pc := wadd s.cfg.xlen s.pc 1 } ∧
      exec (.undefined40to7F op) s = .next { s with pc := wadd s.cfg.xlen s.pc 1 } ∧
      exec (.undefined80toFF op) s = .next { s with pc := wadd s.cfg.xlen s.pc 1 }

/-- `ret`: the top frame is popped, the pc is the frame's own (D5), all four counters are the frame's,
and `interrupt` is set if the frame's is and never cleared; the ALU flags stay (D25). With no frame,
CallStackUnderflow. The frame's pc is a Word in every state of `Inv`. -/
def Obligations.RetRestoresTheTopFrame : Prop :=
  ∀ s : State,
    (s.cstack = [] →
      exec .ret s = .next (takeFault ⟨.callStackUnderflow, .nothing⟩ s)) ∧
    ∀ (rest : List Frame) (fr : Frame), s.cstack = rest ++ [fr] → s.cfg.xlen.holds fr.pc →
      exec .ret s = .next { s with
        cstack := rest
        pc := fr.pc
        dcs := fr.dcs
        interrupt := s.interrupt || fr.interrupt }

/-! ## Interrupt control instructions -/

/-- `ien`: every slot keeps its `selected` flag and is enabled iff it was enabled or is selected; the
untouched ALU flags are D25. -/
def Obligations.IenEnablesSelectedBuses : Prop :=
  ∀ s : State, ∃ t, exec .ien s = .next t ∧
    t = { s with buses := t.buses, pc := wadd s.cfg.xlen s.pc 1 } ∧
    t.buses.length = s.buses.length ∧
    ∀ (b : Nat) (slot : BusSlot), s.buses[b]? = some slot →
      t.buses[b]? = some { slot with enabled := slot.enabled || slot.selected }

/-- `idi` (R161): every slot is disabled, `selected` is neither read nor written. -/
def Obligations.IdiDisablesEveryBus : Prop :=
  decodeByte 0x11 = .idi ∧
  ∀ s : State, ∃ t, exec .idi s = .next t ∧
    t = { s with buses := t.buses, pc := wadd s.cfg.xlen s.pc 1 } ∧
    t.buses.length = s.buses.length ∧
    (∀ (b : Nat) (slot : BusSlot), s.buses[b]? = some slot →
      t.buses[b]? = some { slot with enabled := false }) ∧
    ∀ b, (linkAt t b).send = (linkAt s b).send

/-- `recv` completes where an enabled bus has a pending offer: ONE such offer, any one (D17; the free
choice of log entry 2, counted as in log entry 13), is taken,
its slot empties, and the front of the conveyor is the value and then the bus index, exact under the
bound of R4 (D18). -/
def Obligations.RecvDeliversOneEnabledOffer : Prop :=
  ∀ (s : State) (c : Nat) (n : Com Int),
    c < s.nbus → busEnabled s c = true → (linkAt s c).send = some n →
    ∃ b m, b < s.nbus ∧ busEnabled s b = true ∧ (linkAt s b).send = some m ∧
      (busBound s → busIndexWord s.cfg.xlen b = b) ∧
      exec .recv s = .next { s with
        conveyor := m.data :: busIndexWord s.cfg.xlen b :: s.conveyor.dropLast.dropLast
        links := s.links.modify b fun l => { l with send := none }
        draws := s.draws + 1
        pc := wadd s.cfg.xlen s.pc 1 }

/-- `recv` with no acceptable offer: it waits with nothing changed, the pc included (D30; that the wait
is a step is log entry 10), or raises ChannelClosed where the send channel is closed (D21). -/
def Obligations.RecvWaitsOrFindsTheChannelClosed : Prop :=
  ∀ s : State,
    (∀ b < s.nbus, busEnabled s b = true → (linkAt s b).send = none) →
    (s.closed.send = false → exec .recv s = .next s) ∧
    (s.closed.send = true →
      exec .recv s =
        .next (takeFault ⟨.channelClosed, .channel .send⟩ s))

/-- `recv` never accepts a message from a disabled bus: its offers stay pending where they are (D17,
conflict C5). -/
def Obligations.RecvKeepsOffersOfDisabledBuses : Prop :=
  ∀ (s t : State) (b : Nat), exec .recv s = .next t → busEnabled s b = false →
    linkAt t b = linkAt s b

/-! ## Frames of every instruction -/

/-- No instruction stops the machine: in every state `exec` answers a next state, be it the
instruction's own effect or the fault entry of an error. It draws no line between the two, so it says
of no instruction that it completes (the statements of each instruction do). There is no illegal
encoding (R86); that an error is taken is D8; that a waiting `recv` answers a next state too, its
state unchanged, is D30 and the model's choice of log entry 10 (R163 equally allows no step). -/
def Obligations.EveryInstructionAnswersANextState : Prop :=
  ∀ (i : Instr) (s : State), ∃ t, exec i s = .next t

/-- What no instruction can change (R40, which the spec derives): data memory at every address, the
program, the permission, `selected`, the depth of the data stack; nor the construction parameters,
the wiring, the closed indications, the schedule, or an offer of another kind than `send`. -/
def Obligations.InstructionsNeverChangeMemoryOrAuthority : Prop :=
  ∀ (i : Instr) (s t : State), exec i s = .next t →
    t.data = s.data ∧ (∀ a, t.data.read a = s.data.read a) ∧ t.program = s.program ∧
    t.permission = s.permission ∧ t.dstack.length = s.dstack.length ∧
    t.dstack.dropLast = s.dstack.dropLast ∧
    t.buses.map (·.selected) = s.buses.map (·.selected) ∧
    t.buses.map (·.sender) = s.buses.map (·.sender) ∧
    t.cfg = s.cfg ∧ t.closed = s.closed ∧ t.schedule = s.schedule ∧
    ∀ b, (linkAt t b).stream = (linkAt s b).stream ∧ (linkAt t b).incept = (linkAt s b).incept ∧
      (linkAt t b).kill = (linkAt s b).kill

/-- Which instruction can change which register (R39, which the spec derives): every other instruction
leaves it. -/
def Obligations.RegistersChangeOnlyWhereTheTableSays : Prop :=
  ∀ (i : Instr) (s t : State), exec i s = .next t →
    (i ≠ .ret → t.dcs = s.dcs ∧ t.interrupt = s.interrupt ∧ t.cstack = s.cstack) ∧
    (writesFlags i = false → t.carry = s.carry ∧ t.overflow = s.overflow) ∧
    (usesStackTop i = false → t.dstack = s.dstack) ∧
    (i ≠ .recv → t.conveyor = s.conveyor ∧ t.links = s.links ∧ t.draws = s.draws) ∧
    (i ≠ .ien → i ≠ .idi → t.buses = s.buses)

/-- Faults are precise and each instruction raises only its own errors (R228, R235; D7): an
instruction either leaves the phase, `running` and the owner's reports alone, or its whole effect is
the fault entry of an error that R228 lists for it. -/
def Obligations.FaultsArePreciseAndListed : Prop :=
  ∀ (i : Instr) (s t : State), exec i s = .next t →
    (t.phase = s.phase ∧ t.running = s.running ∧ t.reports = s.reports) ∨
    ∃ e, e.kind ∈ mayRaise i ∧ t = takeFault e s

/-- No instruction depends on the privilege, or on any part of the permission (R237; D13, D15, D19): two
runs that differ only there differ only there afterwards. Both runs start at one value of `draws`, so
a `recv` with several acceptable offers makes the SAME free choice in both (log entry 2); where R162
lets the two choose differently this says nothing. -/
def Obligations.PermissionNeverInfluencesAnInstruction : Prop :=
  ∀ (i : Instr) (s t : State) (p : Permission), exec i s = .next t →
    exec i { s with permission := p } = .next { t with permission := p }

/-! ## Fault entry and the cycle -/

/-- Fault entry: `running` falls, the phase records the cause and the pc, the owner receives the code,
the pc and the value, and nothing else changes (R234; D8, D9, D36). -/
def Obligations.FaultEntryRecordsAndReports : Prop :=
  (∀ (e : Raise) (s : State), takeFault e s = { s with
    running := false
    phase := .faulted e.kind s.pc
    reports := s.reports ++ [{ code := errorCode e.kind, pc := s.pc, value := e.value }] }) ∧
  [ErrorKind.stackUnderflow, .callStackUnderflow, .indexOutOfRange, .channelClosed,
    .streamReadFailure, .addressOutOfRange, .fetchOutOfRange].map errorCode = [1, 2, 3, 4, 5, 6, 7]

/-- A step of the core that is Running with no kill pending runs the decoded instruction at the pc, in
the state whose turn is spent. -/
def Obligations.StepRunsTheDecodedInstruction : Prop :=
  ∀ (s : State) (op : Byte),
    coreMovesNext s = true → s.phase = .running →
    (∀ b < s.nbus, (linkAt s b).kill = none) →
    0 ≤ s.pc → s.program[s.pc.toNat]? = some op →
    (decodeByte op).wellFormed = true ∧ step s = exec (decodeByte op) (spendTurn s)

/-- A fetch outside the program is the fault FetchOutOfRange, taken before anything of an instruction
(R209; the kind is the spec's own, D4). -/
def Obligations.FetchOutsideTheProgramFaults : Prop :=
  ∀ s : State,
    coreMovesNext s = true → s.phase = .running →
    (∀ b < s.nbus, (linkAt s b).kill = none) →
    s.pc < 0 ∨ s.program.length ≤ s.pc →
    step s = .next (takeFault ⟨.fetchOutOfRange, .address s.pc⟩ (spendTurn s))

/-- A Faulted core executes nothing and accepts no offer: its step changes nothing (R211; D8). That it
has a step at all, an empty one, is the model's choice of log entry 10. -/
def Obligations.FaultedCoreDoesNothing : Prop :=
  ∀ (s : State) (c : ErrorKind) (p : Int),
    coreMovesNext s = true → s.phase = .faulted c p → step s = .next (spendTurn s)

/-! ## Kill -/

/-- A pending kill is polled before the fetch (D12): ONE pending kill, any one (log entry 2), is
consumed, and its own authority decides, whatever else is pending. Authorised: the cycle ends with
nothing fetched; under KILL_DISCARD_MODE reset the execution context is cleared as R206 lists, and in
either mode what R206 retains is retained (D14). Unauthorised: the cycle goes on to the fetch (D13). -/
def Obligations.AuthorisedKillDiscardsTheProgram : Prop :=
  ∀ (s : State) (c : Nat) (n : Com Unit),
    coreMovesNext s = true → s.phase = .running → c < s.nbus → (linkAt s c).kill = some n →
    ∃ b m, b < s.nbus ∧ (linkAt s b).kill = some m ∧
      (authKill s.cfg m.permission s.permission = true →
        (s.cfg.killDiscard = .reset →
          step s = .next { s with
            running := false
            phase := .awaitingInception
            program := []
            pc := 0
            dcs := { dc0 := 0, dc1 := 0, dc2 := 0, dc3 := 0 }
            carry := false
            overflow := false
            interrupt := false
            dstack := []
            cstack := []
            links := s.links.modify b fun l => { l with kill := none }
            draws := s.draws + 1
            schedule := s.schedule.tail }) ∧
        ∃ t, step s = .next t ∧ t.running = false ∧ t.phase = .awaitingInception ∧
          t.data = s.data ∧ t.conveyor = s.conveyor ∧ t.buses = s.buses ∧
          t.permission = s.permission ∧ t.closed = s.closed ∧ t.cfg = s.cfg ∧
          t.reports = s.reports ∧
          t.links = s.links.modify b fun l => { l with kill := none }) ∧
      (authKill s.cfg m.permission s.permission = false →
        (∀ op, 0 ≤ s.pc → s.program[s.pc.toNat]? = some op →
          step s = exec (decodeByte op) { s with
            links := s.links.modify b fun l => { l with kill := none }
            draws := s.draws + 1
            schedule := s.schedule.tail }) ∧
        (s.pc < 0 ∨ s.program.length ≤ s.pc →
          step s = .next (takeFault ⟨.fetchOutOfRange, .address s.pc⟩ { s with
            links := s.links.modify b fun l => { l with kill := none }
            draws := s.draws + 1
            schedule := s.schedule.tail })))

/-- Where every pending kill is unauthorised, one is consumed and the cycle goes on to the fetch as if it
had not been there (R205; D12, D13; the kind of the fetch fault is D4). -/
def Obligations.UnauthorisedKillIsDiscarded : Prop :=
  ∀ (s : State) (c : Nat) (n : Com Unit),
    coreMovesNext s = true → s.phase = .running → c < s.nbus → (linkAt s c).kill = some n →
    (∀ b m, b < s.nbus → (linkAt s b).kill = some m →
      authKill s.cfg m.permission s.permission = false) →
    ∃ b m, b < s.nbus ∧ (linkAt s b).kill = some m ∧
      (∀ op, 0 ≤ s.pc → s.program[s.pc.toNat]? = some op →
        step s = exec (decodeByte op) { s with
          links := s.links.modify b fun l => { l with kill := none }
          draws := s.draws + 1
          schedule := s.schedule.tail }) ∧
      (s.pc < 0 ∨ s.program.length ≤ s.pc →
        step s = .next (takeFault ⟨.fetchOutOfRange, .address s.pc⟩ { s with
          links := s.links.modify b fun l => { l with kill := none }
          draws := s.draws + 1
          schedule := s.schedule.tail }))

/-- The decided access predicates, and their consequence that who incepts a program can always kill it
(R182, R183; D13, D15). -/
def Obligations.InceptingAgentCanAlwaysKill : Prop :=
  ∀ (cfg : Params), cfg.authIncept = .decided → cfg.authKill = .decided →
    (∀ m t : Permission, authIncept cfg m t = true ↔ t.privilege.toNat ≤ m.privilege.toNat) ∧
    (∀ m c : Permission, authKill cfg m c = true ↔ c.privilege.toNat ≤ m.privilege.toNat) ∧
    ∀ m t : Permission, authIncept cfg m t = true → authKill cfg m t = true

/-! ## Inception -/

/-- The core in AwaitingInception takes ONE pending incept, any one (D15, log entry 2). Unauthorised: consumed, and
nothing else changes. Authorised and fully drained: exactly `permission`, `program`, `pc`, `running`
and `phase` are written (D11). Authorised with a failing source: StreamReadFailure, `permission`
replaced, `program` SOME prefix (a free value, log entry 3), the pc unchanged (D29). -/
def Obligations.AwaitingCoreTakesOneIncept : Prop :=
  ∀ (s : State) (c : Nat) (n : Com InceptPayload),
    coreMovesNext s = true → s.phase = .awaitingInception →
    c < s.nbus → (linkAt s c).incept = some n →
    ∃ b m, b < s.nbus ∧ (linkAt s b).incept = some m ∧
      (authIncept s.cfg m.permission m.data.target = false →
        step s = .next { s with
          links := s.links.modify b fun l => { l with incept := none }
          draws := s.draws + 1
          schedule := s.schedule.tail }) ∧
      (authIncept s.cfg m.permission m.data.target = true → m.data.source.errors = false →
        step s = .next { s with
          permission := m.data.target
          program := m.data.source.bytes
          pc := 0
          running := true
          phase := .running
          links := s.links.modify b fun l => { l with incept := none }
          draws := s.draws + 1
          schedule := s.schedule.tail }) ∧
      (authIncept s.cfg m.permission m.data.target = true → m.data.source.errors = true →
        ∃ taken, taken <+: m.data.source.bytes ∧
          step s = .next (takeFault ⟨.streamReadFailure, .nothing⟩ { s with
            permission := m.data.target
            program := taken
            phase := .loading
            links := s.links.modify b fun l => { l with incept := none }
            draws := s.draws + 1
            schedule := s.schedule.tail }))

/-- The core in AwaitingInception with no incept pending changes nothing, whatever else is pending, or
raises ChannelClosed where the incept channel is closed (R202; D21). R202 gives the waiting core no
step; that the wait is a step answering the unchanged state is the model's choice of log entry 10. -/
def Obligations.AwaitingCoreIdlesWithoutIncept : Prop :=
  ∀ s : State,
    coreMovesNext s = true → s.phase = .awaitingInception →
    (∀ b < s.nbus, (linkAt s b).incept = none) →
    (s.closed.incept = false → step s = .next (spendTurn s)) ∧
    (s.closed.incept = true →
      step s = .next (takeFault ⟨.channelClosed, .channel .incept⟩ (spendTurn s)))

/-! ## Rules of the whole machine -/

/-- The transitions of the reinception machine (R201; D8, D29): the core leaves AwaitingInception only
by an authorised incept or a closed channel, returns to it only by an authorised kill, and leaves
Faulted by no step of its own; the environment moves the phase only by the owner's Reset. -/
def Obligations.PhasesChangeOnlyAsTheTableSays : Prop :=
  ∀ s t : State, step s = .next t →
    (coreMovesNext s = true →
      (t.phase = s.phase ∧ s.phase ≠ .loading) ∨
      (s.phase = .awaitingInception ∧ t.phase = .running ∧
        ∃ b m, b < s.nbus ∧ (linkAt s b).incept = some m ∧ m.data.source.errors = false ∧
          authIncept s.cfg m.permission m.data.target = true ∧ t.permission = m.data.target) ∨
      (s.phase = .awaitingInception ∧ t.phase = .faulted .streamReadFailure s.pc ∧
        ∃ b m, b < s.nbus ∧ (linkAt s b).incept = some m ∧ m.data.source.errors = true ∧
          authIncept s.cfg m.permission m.data.target = true ∧ t.permission = m.data.target) ∨
      (s.phase = .awaitingInception ∧ t.phase = .faulted .channelClosed s.pc ∧
        s.closed.incept = true) ∨
      (s.phase = .running ∧ t.phase = .awaitingInception ∧
        ∃ b m, b < s.nbus ∧ (linkAt s b).kill = some m ∧
          authKill s.cfg m.permission s.permission = true) ∨
      (s.phase = .running ∧ ∃ c, t.phase = .faulted c s.pc)) ∧
    (coreMovesNext s = false →
      t.phase = s.phase ∨
      (t.phase = .awaitingInception ∧ s.schedule.head? = some (.environment .ownerReset)))

/-- An offer disappears by a step of the core only at the points R175 lists (D12, D15, D16, D17): an
incept in AwaitingInception, a kill while Running, a `send` while Running at a `recv` from an enabled
bus, and a `stream` never; and it disappears whole, no offer is altered or made by the core (R186). -/
def Obligations.CoreAcceptsOffersOnlyWhereListed : Prop :=
  ∀ s t : State, coreMovesNext s = true → step s = .next t → ∀ b : Nat,
    (linkAt t b).stream = (linkAt s b).stream ∧
    ((linkAt t b).incept = (linkAt s b).incept ∨
      (s.phase = .awaitingInception ∧ (linkAt t b).incept = none)) ∧
    ((linkAt t b).kill = (linkAt s b).kill ∨ (s.phase = .running ∧ (linkAt t b).kill = none)) ∧
    ((linkAt t b).send = (linkAt s b).send ∨
      (s.phase = .running ∧ busEnabled s b = true ∧ fetch s = .ok .recv ∧
        (linkAt t b).send = none))

/-- The interrupt mask changes, by a step of the core, only where `ien` or `idi` runs (R164). -/
def Obligations.MaskChangesOnlyByIenAndIdi : Prop :=
  ∀ s t : State, coreMovesNext s = true → step s = .next t →
    t.buses = s.buses ∨
    (s.phase = .running ∧ fetch s = .ok .ien ∧ t.buses.length = s.buses.length ∧
      ∀ (b : Nat) (slot : BusSlot), s.buses[b]? = some slot →
        t.buses[b]? = some { slot with enabled := slot.enabled || slot.selected }) ∨
    (s.phase = .running ∧ fetch s = .ok .idi ∧ t.buses.length = s.buses.length ∧
      ∀ (b : Nat) (slot : BusSlot), s.buses[b]? = some slot →
        t.buses[b]? = some { slot with enabled := false })

/-- The permission register is written only by an authorised inception and by the owner's Reset (R28,
R237; D13, D15). -/
def Obligations.PermissionChangesOnlyByInception : Prop :=
  ∀ s t : State, step s = .next t →
    t.permission = s.permission ∨
    (coreMovesNext s = true ∧ s.phase = .awaitingInception ∧
      ∃ b m, b < s.nbus ∧ (linkAt s b).incept = some m ∧
        authIncept s.cfg m.permission m.data.target = true ∧ t.permission = m.data.target) ∨
    s.schedule.head? = some (.environment .ownerReset)

/-- Data memory changes only by the owner's preload of it and the owner's Reset, whoever moves: no step
of the core writes it, and neither does an offer, a close, an observation or another preload; every
address then reads as before (R30, R63, R69; D11, D14, D26). -/
def Obligations.CoreNeverWritesDataMemory : Prop :=
  ∀ s t : State, step s = .next t →
    (coreMovesNext s = true → t.data = s.data) ∧
    ((t.data = s.data ∧ ∀ a, t.data.read a = s.data.read a) ∨
      (∃ a v, s.schedule.head? = some (.environment (.preload (.data a v)))) ∨
      s.schedule.head? = some (.environment .ownerReset))

/-- What construction fixes never changes, whoever moves: the parameters and the wiring (R36, R185),
and a closed indication is never withdrawn (R35; D21). -/
def Obligations.ConstructionAndClosureAreStable : Prop :=
  ∀ s t : State, step s = .next t →
    t.cfg = s.cfg ∧ t.buses.map (·.sender) = s.buses.map (·.sender) ∧
    ∀ k, s.closed.get k = true → t.closed.get k = true

/-- The core's turn answers a next state from every state of the invariant: no stop, no refusal. That a
core that waits (in AwaitingInception, where R202 gives it no step; in `recv`, D30) or is Faulted
answers one too, its state unchanged, is the model's choice of log entry 10; that an error is taken
as a next state is D8. -/
def Obligations.CoreTurnAlwaysAnswers : Prop :=
  ∀ s : State, Inv s → coreMovesNext s = true → ∃ t, step s = .next t

/-- The state that every construction leaves meets the invariant, whatever the parameters and the
wiring. Most reset values are the spec's own decision (D10). -/
def Obligations.ConstructionMeetsTheInvariant : Prop :=
  (∀ (cfg : Params) (wiring : List Nat), Inv (State.construct cfg wiring)) ∧ Inv State.reset

/-- EVERY STEP KEEPS THE INVARIANT: from any state of `Inv`, whoever moves. -/
def Obligations.StepKeepsTheInvariant : Prop :=
  ∀ s t : State, Inv s → step s = .next t → Inv t

/-! ## Reset and the owner -/

/-- The values construction leaves (R38, R250). Those the source does not fix are the spec's own
decision (D10); the parameters of `State.reset` are the model's choice (log entry 1) and are not
stated. -/
def Obligations.ConstructionLeavesTheResetValues : Prop :=
  ∀ (cfg : Params) (wiring : List Nat) (s : State), s = State.construct cfg wiring →
    s.cfg = cfg ∧ s.phase = .awaitingInception ∧ (∀ a, s.data.read a = 0) ∧
    s.conveyor = List.replicate 16 0 ∧ s.running = false ∧ s.pc = 0 ∧
    (∀ k, s.dcs.get k = 0) ∧ s.carry = false ∧ s.overflow = false ∧ s.interrupt = false ∧
    s.permission = { privilege := 0, address := 0 } ∧ s.program = [] ∧ s.dstack = [] ∧
    s.cstack = [] ∧ s.buses.map (·.sender) = wiring ∧
    (∀ slot ∈ s.buses, slot.selected = false ∧ slot.enabled = false) ∧
    s.links.length = wiring.length ∧ (∀ b, linkAt s b = Link.idle) ∧
    ∀ k, s.closed.get k = false

/-- The owner's Reset, at any time, gives every item of core state its construction value and leaves
the links, the closed indications and the wiring (R250; D8, D10). -/
def Obligations.OwnerResetKeepsTheLinks : Prop :=
  ∀ (s : State) (rest : List Turn), s.schedule = .environment .ownerReset :: rest →
    ∃ t, step s = .next t ∧
      t.phase = .awaitingInception ∧ t.running = false ∧ t.pc = 0 ∧ (∀ k, t.dcs.get k = 0) ∧
      t.carry = false ∧ t.overflow = false ∧ t.interrupt = false ∧
      t.permission = { privilege := 0, address := 0 } ∧ t.program = [] ∧ t.data = [] ∧
      t.dstack = [] ∧ t.cstack = [] ∧ t.conveyor = List.replicate 16 0 ∧
      t.buses.map (·.sender) = s.buses.map (·.sender) ∧
      (∀ slot ∈ t.buses, slot.selected = false ∧ slot.enabled = false) ∧
      t.links = s.links ∧ t.closed = s.closed ∧ t.cfg = s.cfg ∧ t.schedule = rest

/-- The owner preloads only a core that is not Running, and never `pc`, `program`, `permission`,
`running`, `phase` or a link (R254; D26; the refusal is U17, log entry 14). -/
def Obligations.PreloadOnlyWhileNotRunning : Prop :=
  ∀ (s : State) (p : Preload) (rest : List Turn), s.schedule = .environment (.preload p) :: rest →
    (s.phase = .running → step s = .refused .outsideOwnerTable) ∧
    ∀ t, step s = .next t →
      s.phase ≠ .running ∧ t.pc = s.pc ∧ t.program = s.program ∧ t.permission = s.permission ∧
      t.running = s.running ∧ t.phase = s.phase ∧ t.links = s.links ∧ t.closed = s.closed ∧
      t.cfg = s.cfg

/-- A preloaded data word is read back, and every other address reads as before (R254, R63; D26). That a
Faulted core is among those "not Running" is the model's reading of R256 against the parenthesis of
R254 (DEDUCED, log entry 15). -/
def Obligations.PreloadedDataIsReadBack : Prop :=
  ∀ (s : State) (a : Nat) (v : Int) (rest : List Turn),
    s.schedule = .environment (.preload (.data a v)) :: rest →
    s.phase ≠ .running → a < s.cfg.memSize → s.cfg.xlen.holds v → Memory.wf s.data →
    ∃ t, step s = .next t ∧ t = { s with data := t.data, schedule := rest } ∧
      t.data.read a = v ∧ ∀ b, b ≠ a → t.data.read b = s.data.read b

/-- The other preloads of R254, as `PreloadedDataIsReadBack` for `data` (D26, log entry 15): each writes
the item it names, whole or at the place it names, and nothing else. That the values are to be Words
at places that exist is log entry 14. -/
def Obligations.PreloadWritesTheNamedItem : Prop :=
  ∀ (s : State) (rest : List Turn), s.phase ≠ .running →
    (∀ vs : List Int, s.schedule = .environment (.preload (.dstack vs)) :: rest →
      (∀ v ∈ vs, s.cfg.xlen.holds v) → step s = .next { s with dstack := vs, schedule := rest }) ∧
    (∀ fs : List Frame, s.schedule = .environment (.preload (.cstack fs)) :: rest →
      (∀ fr ∈ fs, s.cfg.xlen.holds fr.pc ∧ countersHold s.cfg.xlen fr.dcs) →
      step s = .next { s with cstack := fs, schedule := rest }) ∧
    (∀ (k : Fin 4) (v : Int), s.schedule = .environment (.preload (.dc k v)) :: rest →
      s.cfg.xlen.holds v →
      ∃ t, step s = .next t ∧ t = { s with dcs := t.dcs, schedule := rest } ∧
        t.dcs.get k = v ∧ ∀ j, j ≠ k → t.dcs.get j = s.dcs.get j) ∧
    (∀ v : Bool, s.schedule = .environment (.preload (.carry v)) :: rest →
      step s = .next { s with carry := v, schedule := rest }) ∧
    (∀ v : Bool, s.schedule = .environment (.preload (.overflow v)) :: rest →
      step s = .next { s with overflow := v, schedule := rest }) ∧
    (∀ v : Bool, s.schedule = .environment (.preload (.interrupt v)) :: rest →
      step s = .next { s with interrupt := v, schedule := rest }) ∧
    (∀ (i : Nat) (v : Int), s.schedule = .environment (.preload (.conveyor i v)) :: rest →
      s.conveyor.length = 16 → i < 16 → s.cfg.xlen.holds v →
      ∃ t, step s = .next t ∧ t = { s with conveyor := t.conveyor, schedule := rest } ∧
        t.conveyor.length = 16 ∧ t.conveyor[i]? = some v ∧
        ∀ j, j ≠ i → t.conveyor[j]? = s.conveyor[j]?) ∧
    (∀ (b : Nat) (v : Bool) (slot : BusSlot),
      s.schedule = .environment (.preload (.selected b v)) :: rest → s.buses[b]? = some slot →
      ∃ t, step s = .next t ∧ t = { s with buses := t.buses, schedule := rest } ∧
        t.buses[b]? = some { slot with selected := v } ∧
        ∀ c, c ≠ b → t.buses[c]? = s.buses[c]?) ∧
    ∀ (b : Nat) (v : Bool) (slot : BusSlot),
      s.schedule = .environment (.preload (.enabled b v)) :: rest → s.buses[b]? = some slot →
      ∃ t, step s = .next t ∧ t = { s with buses := t.buses, schedule := rest } ∧
        t.buses[b]? = some { slot with enabled := v } ∧
        ∀ c, c ≠ b → t.buses[c]? = s.buses[c]?

/-- A sender offers only in an empty slot of a link that exists, on a channel that is not closed: there
the offer of each of the four kinds is pending afterwards with its stamp, its payload and its link's
index, and nothing else changes; on an occupied slot, on a link that does not exist, on a closed
channel, or with a `send` payload that is no Word, the move is outside the owner's table (R174, R256,
U17; that a link must exist, a channel be open and a value be a Word is DEDUCED, log entry 14). -/
def Obligations.OffersOnlyInEmptySlots : Prop :=
  ∀ (s : State) (b : Nat) (stamp : Permission) (rest : List Turn),
    (∀ w : Int, s.schedule = .environment (.offerSend b stamp w) :: rest →
      (s.nbus ≤ b ∨ (linkAt s b).send ≠ none ∨ s.closed.send = true ∨ ¬ s.cfg.xlen.holds w →
        step s = .refused .outsideOwnerTable) ∧
      (b < s.nbus → s.links.length = s.buses.length →
        (linkAt s b).send = none → s.closed.send = false → s.cfg.xlen.holds w →
        ∃ t, step s = .next t ∧ linkBecomes s t rest b
          { linkAt s b with send := some { permission := stamp, bus := b, data := w } })) ∧
    (s.schedule = .environment (.offerKill b stamp) :: rest →
      (s.nbus ≤ b ∨ (linkAt s b).kill ≠ none ∨ s.closed.kill = true →
        step s = .refused .outsideOwnerTable) ∧
      (b < s.nbus → s.links.length = s.buses.length →
        (linkAt s b).kill = none → s.closed.kill = false →
        ∃ t, step s = .next t ∧ linkBecomes s t rest b
          { linkAt s b with kill := some { permission := stamp, bus := b, data := () } })) ∧
    (∀ target source, s.schedule = .environment (.offerIncept b stamp target source) :: rest →
      (s.nbus ≤ b ∨ (linkAt s b).incept ≠ none ∨ s.closed.incept = true →
        step s = .refused .outsideOwnerTable) ∧
      (b < s.nbus → s.links.length = s.buses.length →
        (linkAt s b).incept = none → s.closed.incept = false →
        ∃ t, step s = .next t ∧ linkBecomes s t rest b
          { linkAt s b with
            incept := some { permission := stamp, bus := b, data := ⟨target, source⟩ } })) ∧
    ∀ bytes, s.schedule = .environment (.offerStream b stamp bytes) :: rest →
      (s.nbus ≤ b ∨ (linkAt s b).stream ≠ none ∨ s.closed.stream = true →
        step s = .refused .outsideOwnerTable) ∧
      (b < s.nbus → s.links.length = s.buses.length →
        (linkAt s b).stream = none → s.closed.stream = false →
        ∃ t, step s = .next t ∧ linkBecomes s t rest b
          { linkAt s b with stream := some { permission := stamp, bus := b, data := bytes } })

/-! ## Engines -/

/-- Data memory in its canonical form is determined by what its addresses read. -/
def Obligations.EqualReadsMeanEqualMemories : Prop :=
  ∀ m n : Memory, Memory.wf m → Memory.wf n → (∀ a, m.read a = n.read a) → m = n

/-- `rotate(pos)` (R102): the element `pos` slots below the top moves to the top; `pos` at the bottom or
beyond raises IndexOutOfRange(pos). -/
def Obligations.RotateMovesAnElementToTheTop : Prop :=
  ∀ (s : State) (pos : Nat),
    (s.dstack.length ≤ pos + 1 →
      rotate pos s = .error ⟨.indexOutOfRange, .position pos⟩) ∧
    ∀ (below above : List Int) (v : Int), s.dstack = below ++ v :: above → above.length = pos →
      below ≠ [] → rotate pos s = .ok { s with dstack := below ++ above ++ [v] }

/-- `copy(pos)` (R103): the element `pos` slots below the top is duplicated onto the top; `pos` at the
bottom or beyond raises IndexOutOfRange(pos). -/
def Obligations.CopyDuplicatesAnElement : Prop :=
  ∀ (s : State) (pos : Nat),
    (s.dstack.length ≤ pos + 1 →
      copy pos s = .error ⟨.indexOutOfRange, .position pos⟩) ∧
    ∀ (below above : List Int) (v : Int), s.dstack = below ++ v :: above → above.length = pos →
      below ≠ [] → copy pos s = .ok { s with dstack := below ++ v :: above ++ [v] }

/-- `pop_frame` (R107): the top frame is returned and removed, the frames below stay, and an empty call
stack raises CallStackUnderflow. -/
def Obligations.CallFramesPopInReverse : Prop :=
  (∀ s : State, s.cstack = [] → popFrame s = .error ⟨.callStackUnderflow, .nothing⟩) ∧
  ∀ (s : State) (rest : List Frame) (fr : Frame), s.cstack = rest ++ [fr] →
    popFrame s = .ok (fr, { s with cstack := rest })

/-- `push_frame` saves its three arguments as the new top frame and changes nothing else, so that
`pop_frame` gives them back (R106, R107; that it cannot fail is D22; no step calls it, log entry 25). -/
def Obligations.PushedFrameIsPoppedBack : Prop :=
  ∀ (s : State) (pc : Int) (dcs : DataCounters) (interrupt : Bool) (fr : Frame),
    fr = { pc := pc, dcs := dcs, interrupt := interrupt } →
    pushFrame pc dcs interrupt s = { s with cstack := s.cstack ++ [fr] } ∧
    popFrame (pushFrame pc dcs interrupt s) = .ok (fr, s)

/-- `deliver` (R110): the front two slots are the value and the bus index, every other slot is the old
one two places before it, the two oldest are lost, and the length stays. -/
def Obligations.DeliverFillsTheFrontOfTheConveyor : Prop :=
  ∀ (s : State) (value index : Int), s.conveyor.length = 16 →
    ∃ after : List Int, deliver value index s = { s with conveyor := after } ∧ after.length = 16 ∧
      after[0]? = some value ∧ after[1]? = some index ∧
      ∀ i, 2 ≤ i → i ≤ 15 → after[i]? = s.conveyor[i - 2]?

/-- After any deliveries from sixteen zeros the conveyor holds the most recent ones, value and bus index
in that order, newest first, eight of them at the most (R111, which the spec derives; the zeros are
D10). -/
def Obligations.ConveyorHoldsTheEightLatestDeliveries : Prop :=
  ∀ (s : State) (ds : List (Int × Int)), s.conveyor = List.replicate 16 0 →
    (ds.foldl (fun (u : State) (d : Int × Int) => deliver d.1 d.2 u) s).conveyor =
      (ds.reverse.flatMap (fun (d : Int × Int) => [d.1, d.2]) ++ List.replicate 16 0).take 16

/-- The mark of U1, a predicate of the model (log entry 23): a core is marked exactly where it is Running
with a byte 0x13 to 0xFF at its pc, so a program of the bytes 0x00 to 0x12, which is what
`documentedProgram` checks, is never marked. -/
def Obligations.DocumentedProgramsAreNeverMarked : Prop :=
  (∀ p : List Byte, documentedProgram p = true ↔ ∀ op ∈ p, op.toNat ≤ 0x12) ∧
  ∀ s : State,
    ((∀ op ∈ s.program, op.toNat ≤ 0x12) → executesUndefined s = false) ∧
    (∀ op : Byte, s.phase = .running → 0 ≤ s.pc → s.program[s.pc.toNat]? = some op →
      (executesUndefined s = true ↔ 0x13 ≤ op.toNat)) ∧
    (s.phase ≠ .running ∨ s.pc < 0 ∨ s.program.length ≤ s.pc → executesUndefined s = false)
end

