-- ==== Sys2Proof/Laws/Arith.lean ====
section
/-! SUPPORT. Sys2Proof/Laws/Arith.lean: what the operations of the Word type do (R5). -/

namespace Sys2Proof

/-- The table of half ranges is `2^(XLEN-1)` (R5). -/
theorem XLen.half_eq_pow (x : XLen) : x.half = 2 ^ (x.bits - 1) := by cases x <;> rfl

theorem XLen.half_pos (x : XLen) : 0 < x.half := by cases x <;> decide

theorem XLen.two_half_eq_pow (x : XLen) : 2 * x.half = 2 ^ x.bits := by cases x <;> rfl

/-- A Word lies in the half-open range of its width; the one spelling `omega` is given. -/
theorem XLen.holds_iff (x : XLen) (a : Int) : x.holds a ↔ -x.half ≤ a ∧ a < x.half := by
  simp only [XLen.holds, XLen.wordMin, XLen.wordMax]
  omega

theorem XLen.holds_zero (x : XLen) : x.holds 0 := by
  have := x.half_pos
  rw [XLen.holds_iff]
  omega

end Sys2Proof

namespace Sys2Proof.Machine

variable (x : XLen)

/-- The result of `wrap` is a Word. -/
theorem wrap_holds (a : Int) : x.holds (wrap x a) := by
  have hp := x.half_pos
  have h1 := Int.emod_nonneg (a + x.half) (b := 2 * x.half) (by omega)
  have h2 := Int.emod_lt_of_pos (a + x.half) (b := 2 * x.half) (by omega)
  rw [XLen.holds_iff]
  unfold wrap
  omega

/-- A Word wraps to itself. -/
theorem wrap_of_holds {a : Int} (h : x.holds a) : wrap x a = a := by
  rw [XLen.holds_iff] at h
  unfold wrap
  rw [Int.emod_eq_of_lt (by omega) (by omega)]
  omega

/-- One range below: `wrap` adds the modulus back. -/
theorem wrap_below {a : Int} (h1 : -3 * x.half ≤ a) (h2 : a < -x.half) : wrap x a = a + 2 * x.half := by
  unfold wrap
  rw [← Int.add_emod_right, Int.emod_eq_of_lt (by omega) (by omega)]
  omega

/-- One range above: `wrap` takes the modulus off. -/
theorem wrap_above {a : Int} (h1 : x.half ≤ a) (h2 : a < 3 * x.half) : wrap x a = a - 2 * x.half := by
  unfold wrap
  rw [← Int.sub_emod_right, Int.emod_eq_of_lt (by omega) (by omega)]
  omega

/-- `wrap` changes an integer by a multiple of `2^XLEN`. -/
theorem wrap_congr (a : Int) : (2 * x.half) ∣ a - wrap x a := by
  refine ⟨(a + x.half) / (2 * x.half), ?_⟩
  have := Int.mul_ediv_add_emod (a + x.half) (2 * x.half)
  unfold wrap
  omega

theorem wadd_holds (a b : Int) : x.holds (wadd x a b) := wrap_holds x _

theorem wsub_holds (a b : Int) : x.holds (wsub x a b) := wrap_holds x _

theorem wnot_holds {a : Int} (h : x.holds a) : x.holds (wnot a) := by
  rw [XLen.holds_iff] at h ⊢
  unfold wnot
  omega

/-- A Word plus RET_RESUME_OFFSET is the Word (R151, decision D5). -/
theorem wadd_zero {a : Int} (h : x.holds a) : wadd x a 0 = a := by
  rw [wadd, Int.add_zero, wrap_of_holds x h]

@[simp] theorem neg_eq_true_iff (a : Int) : neg a = true ↔ a < 0 := by simp [neg]

@[simp] theorem nonneg_eq_true_iff (a : Int) : nonneg a = true ↔ 0 ≤ a := by simp [nonneg]

/-- Two Words have equal sign (R8). -/
theorem neg_eq_neg_iff (a b : Int) : neg a = neg b ↔ (a < 0 ↔ b < 0) := by simp [neg]

@[simp] theorem addFlags_result (a b : Int) : (addFlags x a b).result = wadd x a b := rfl
@[simp] theorem addFlags_overflow (a b : Int) :
    (addFlags x a b).overflow = (neg a == neg b && neg (wadd x a b) != neg a) := rfl
@[simp] theorem addFlags_carry (a b : Int) :
    (addFlags x a b).carry = (neg a && neg b && nonneg (wadd x a b)) := rfl
@[simp] theorem incFlags_result (v : Int) : (incFlags x v).result = wadd x v 1 := rfl
@[simp] theorem incFlags_overflow (v : Int) :
    (incFlags x v).overflow = (nonneg v && neg (wadd x v 1)) := rfl
@[simp] theorem incFlags_carry (v : Int) : (incFlags x v).carry = (wadd x v 1 == 0) := rfl
@[simp] theorem decFlags_result (v : Int) : (decFlags x v).result = wsub x v 1 := rfl
@[simp] theorem decFlags_overflow (v : Int) :
    (decFlags x v).overflow = (neg v && nonneg (wsub x v 1)) := rfl
@[simp] theorem decFlags_carry (v : Int) : (decFlags x v).carry = (v != 0) := rfl

end Sys2Proof.Machine
end

