-- ==== Sys2Proof/Laws/Dispatch.lean ====
section
/-! SUPPORT. Sys2Proof/Laws/Dispatch.lean: exec of each constructor, as its meaning. -/

namespace Sys2Proof.Machine

variable (s : State)

@[simp] theorem exec_rread (k : Fin 4) : exec (.rread k) s = execRread k s := rfl
@[simp] theorem exec_add (k : Fin 4) : exec (.add k) s = execAdd k s := rfl
@[simp] theorem exec_inc : exec .inc s = execInc s := rfl
@[simp] theorem exec_dec : exec .dec s = execDec s := rfl
@[simp] theorem exec_carry : exec .carry s = execCarry s := rfl
@[simp] theorem exec_borrow : exec .borrow s = execBorrow s := rfl
@[simp] theorem exec_inv : exec .inv s = execInv s := rfl
@[simp] theorem exec_flush : exec .flush s = execFlush s := rfl
@[simp] theorem exec_reads : exec .reads s = execReads s := rfl
@[simp] theorem exec_ret : exec .ret s = execRet s := rfl
@[simp] theorem exec_ien : exec .ien s = execIen s := rfl
@[simp] theorem exec_idi : exec .idi s = execIdi s := rfl
@[simp] theorem exec_recv : exec .recv s = execRecv s := rfl
@[simp] theorem exec_undefined13 : exec .undefined13 s = execUndefined13 s := rfl
@[simp] theorem exec_undefined14to17 (b : Byte) :
    exec (.undefined14to17 b) s = execUndefined14to17 s := rfl
@[simp] theorem exec_undefined18to1F (b : Byte) :
    exec (.undefined18to1F b) s = execUndefined18to1F s := rfl
@[simp] theorem exec_undefined20to3F (b : Byte) :
    exec (.undefined20to3F b) s = execUndefined20to3F s := rfl
@[simp] theorem exec_undefined40to7F (b : Byte) :
    exec (.undefined40to7F b) s = execUndefined40to7F s := rfl
@[simp] theorem exec_undefined80toFF (b : Byte) :
    exec (.undefined80toFF b) s = execUndefined80toFF s := rfl

end Sys2Proof.Machine
end

