-- ==== Sys2Proof/Laws/Memory.lean ====
section
/-! SUPPORT. Sys2Proof/Laws/Memory.lean: reads after writes, and the canonical form kept. -/

namespace Sys2Proof.Machine

@[simp] theorem Memory.read_nil (a : Nat) : Memory.read [] a = 0 := rfl

/-- An address below every entry is unlisted. -/
theorem Memory.read_eq_zero_of_below {m : Memory} {a : Nat} (h : ∀ c ∈ m, a < c.1) :
    Memory.read m a = 0 := by
  induction m with
  | nil => rfl
  | cons c rest ih =>
    have hc := h c (by simp)
    simp only [Memory.read]
    rw [if_neg (by omega)]
    exact ih fun d hd => h d (by simp [hd])

/-- The written address reads the written Word. -/
theorem Memory.read_write_same {m : Memory} (hm : Memory.wf m) (a : Nat) (v : Int) :
    Memory.read (Memory.write m a v) a = v := by
  induction m with
  | nil => by_cases hv : v = 0 <;> simp [Memory.write, Memory.read, Config.unwrittenWord, hv]
  | cons c rest ih =>
    obtain ⟨b, w⟩ := c
    have hp := List.pairwise_cons.1 hm.1
    have below : ∀ d ∈ rest, b < d.1 := hp.1
    rcases Nat.lt_trichotomy a b with hab | rfl | hab
    · by_cases hv : v = 0
      · have : ∀ d ∈ (b, w) :: rest, a < d.1 := by
          intro d hd
          rcases List.mem_cons.1 hd with rfl | hd
          · exact hab
          · exact Nat.lt_trans hab (below d hd)
        simp [Memory.write, Config.unwrittenWord, hab, hv, Memory.read_eq_zero_of_below this]
      · simp [Memory.write, Memory.read, Config.unwrittenWord, hab, hv]
    · by_cases hv : v = 0
      · simp [Memory.write, Config.unwrittenWord, hv, Memory.read_eq_zero_of_below below]
      · simp [Memory.write, Memory.read, Config.unwrittenWord, hv]
    · have h1 : ¬ a < b := by omega
      have h2 : ¬ a = b := by omega
      simp only [Memory.write, if_neg h1, if_neg h2, Memory.read]
      exact ih ⟨hp.2, fun d hd => hm.2 d (by simp [hd])⟩

/-- Every other address reads as before. -/
theorem Memory.read_write_other {m : Memory} (a b : Nat) (v : Int) (h : b ≠ a) :
    Memory.read (Memory.write m a v) b = Memory.read m b := by
  induction m with
  | nil =>
    simp only [Memory.write]
    split <;> simp [Memory.read, Config.unwrittenWord, h]
  | cons c rest ih =>
    obtain ⟨d, w⟩ := c
    simp only [Memory.write]
    split
    · split
      · rfl
      · simp [Memory.read, h]
    · split
      · rename_i _ had
        split <;> simp [Memory.read, ← had, h]
      · simp only [Memory.read, ih]

/-- An entry of a written memory was there before, or is the written one. -/
theorem Memory.mem_write {m : Memory} {a : Nat} {v : Int} {c : Nat × Int}
    (h : c ∈ Memory.write m a v) : c ∈ m ∨ (c = (a, v) ∧ v ≠ Config.unwrittenWord) := by
  induction m with
  | nil =>
    simp only [Memory.write] at h
    split at h <;> simp_all
  | cons d rest ih =>
    obtain ⟨b, w⟩ := d
    simp only [Memory.write] at h
    split at h
    · split at h <;> simp_all
      tauto
    · split at h
      · split at h <;> simp_all
        tauto
      · rcases List.mem_cons.1 h with rfl | h
        · simp
        · rcases ih h with h | h <;> simp [h]

/-- A write keeps the canonical form. -/
theorem Memory.write_wf {m : Memory} (hm : Memory.wf m) (a : Nat) (v : Int) :
    Memory.wf (Memory.write m a v) := by
  refine ⟨?_, fun c hc => ?_⟩
  · induction m with
    | nil =>
      simp only [Memory.write]
      split <;> simp
    | cons d rest ih =>
      obtain ⟨b, w⟩ := d
      have hp := List.pairwise_cons.1 hm.1
      have htail : Memory.wf rest := ⟨hp.2, fun c hc => hm.2 c (by simp [hc])⟩
      simp only [Memory.write]
      split
      · rename_i hab
        split
        · exact hm.1
        · refine List.pairwise_cons.2 ⟨fun c hc => ?_, hm.1⟩
          rcases List.mem_cons.1 hc with rfl | hc
          · exact hab
          · exact Nat.lt_trans hab (hp.1 c hc)
      · split
        · rename_i _ hab
          split
          · exact hp.2
          · exact List.pairwise_cons.2 ⟨fun c hc => hab ▸ hp.1 c hc, hp.2⟩
        · rename_i h1 h2
          refine List.pairwise_cons.2 ⟨fun c hc => ?_, ih htail⟩
          rcases Memory.mem_write hc with hc | ⟨rfl, -⟩
          · exact hp.1 c hc
          · exact Nat.lt_of_le_of_ne (Nat.le_of_not_lt h1) (Ne.symm h2)
  · rcases Memory.mem_write hc with hc | ⟨rfl, hv⟩
    · exact hm.2 c hc
    · exact hv

/-- The memory after reset is in its canonical form. -/
theorem Memory.reset_wf : Memory.wf State.reset.data := by decide

/-- Every operation over the state that writes data memory keeps the form: `memWrite` is the only one. -/
theorem memWrite_wf {s : State} (h : Memory.wf s.data) (a : Nat) (v : Int) :
    Memory.wf (memWrite a v s).data := Memory.write_wf h a v

end Sys2Proof.Machine
end

