-- ==== Sys2Proof/Laws/State.lean ====
section
/-! SUPPORT. Sys2Proof/Laws/State.lean: one lemma for each field and each update of the state, true by
rfl, so that no proof unfolds a record update. -/

namespace Sys2Proof.Machine

variable (s : State)

/-! ## advance -/

@[simp] theorem advance_cfg : (advance s).cfg = s.cfg := rfl
@[simp] theorem advance_pc : (advance s).pc = wadd s.cfg.xlen s.pc 1 := rfl
@[simp] theorem advance_dcs : (advance s).dcs = s.dcs := rfl
@[simp] theorem advance_carry : (advance s).carry = s.carry := rfl
@[simp] theorem advance_overflow : (advance s).overflow = s.overflow := rfl
@[simp] theorem advance_interrupt : (advance s).interrupt = s.interrupt := rfl
@[simp] theorem advance_running : (advance s).running = s.running := rfl
@[simp] theorem advance_phase : (advance s).phase = s.phase := rfl
@[simp] theorem advance_permission : (advance s).permission = s.permission := rfl
@[simp] theorem advance_program : (advance s).program = s.program := rfl
@[simp] theorem advance_data : (advance s).data = s.data := rfl
@[simp] theorem advance_dstack : (advance s).dstack = s.dstack := rfl
@[simp] theorem advance_cstack : (advance s).cstack = s.cstack := rfl
@[simp] theorem advance_conveyor : (advance s).conveyor = s.conveyor := rfl
@[simp] theorem advance_buses : (advance s).buses = s.buses := rfl
@[simp] theorem advance_links : (advance s).links = s.links := rfl
@[simp] theorem advance_closed : (advance s).closed = s.closed := rfl
@[simp] theorem advance_reports : (advance s).reports = s.reports := rfl
@[simp] theorem advance_schedule : (advance s).schedule = s.schedule := rfl
@[simp] theorem advance_draws : (advance s).draws = s.draws := rfl

/-! ## replaceTop -/

@[simp] theorem replaceTop_cfg (r : Int) : (replaceTop r s).cfg = s.cfg := rfl
@[simp] theorem replaceTop_pc (r : Int) : (replaceTop r s).pc = s.pc := rfl
@[simp] theorem replaceTop_dcs (r : Int) : (replaceTop r s).dcs = s.dcs := rfl
@[simp] theorem replaceTop_carry (r : Int) : (replaceTop r s).carry = s.carry := rfl
@[simp] theorem replaceTop_overflow (r : Int) : (replaceTop r s).overflow = s.overflow := rfl
@[simp] theorem replaceTop_interrupt (r : Int) : (replaceTop r s).interrupt = s.interrupt := rfl
@[simp] theorem replaceTop_running (r : Int) : (replaceTop r s).running = s.running := rfl
@[simp] theorem replaceTop_phase (r : Int) : (replaceTop r s).phase = s.phase := rfl
@[simp] theorem replaceTop_permission (r : Int) : (replaceTop r s).permission = s.permission := rfl
@[simp] theorem replaceTop_program (r : Int) : (replaceTop r s).program = s.program := rfl
@[simp] theorem replaceTop_data (r : Int) : (replaceTop r s).data = s.data := rfl
@[simp] theorem replaceTop_dstack (r : Int) : (replaceTop r s).dstack = s.dstack.dropLast ++ [r] := rfl
@[simp] theorem replaceTop_cstack (r : Int) : (replaceTop r s).cstack = s.cstack := rfl
@[simp] theorem replaceTop_conveyor (r : Int) : (replaceTop r s).conveyor = s.conveyor := rfl
@[simp] theorem replaceTop_buses (r : Int) : (replaceTop r s).buses = s.buses := rfl
@[simp] theorem replaceTop_links (r : Int) : (replaceTop r s).links = s.links := rfl
@[simp] theorem replaceTop_closed (r : Int) : (replaceTop r s).closed = s.closed := rfl
@[simp] theorem replaceTop_reports (r : Int) : (replaceTop r s).reports = s.reports := rfl
@[simp] theorem replaceTop_schedule (r : Int) : (replaceTop r s).schedule = s.schedule := rfl
@[simp] theorem replaceTop_draws (r : Int) : (replaceTop r s).draws = s.draws := rfl

/-! ## writeFlags -/

@[simp] theorem writeFlags_cfg (o c : Bool) : (writeFlags o c s).cfg = s.cfg := rfl
@[simp] theorem writeFlags_pc (o c : Bool) : (writeFlags o c s).pc = s.pc := rfl
@[simp] theorem writeFlags_dcs (o c : Bool) : (writeFlags o c s).dcs = s.dcs := rfl
@[simp] theorem writeFlags_carry (o c : Bool) : (writeFlags o c s).carry = c := rfl
@[simp] theorem writeFlags_overflow (o c : Bool) : (writeFlags o c s).overflow = o := rfl
@[simp] theorem writeFlags_interrupt (o c : Bool) : (writeFlags o c s).interrupt = s.interrupt := rfl
@[simp] theorem writeFlags_running (o c : Bool) : (writeFlags o c s).running = s.running := rfl
@[simp] theorem writeFlags_phase (o c : Bool) : (writeFlags o c s).phase = s.phase := rfl
@[simp] theorem writeFlags_permission (o c : Bool) : (writeFlags o c s).permission = s.permission := rfl
@[simp] theorem writeFlags_program (o c : Bool) : (writeFlags o c s).program = s.program := rfl
@[simp] theorem writeFlags_data (o c : Bool) : (writeFlags o c s).data = s.data := rfl
@[simp] theorem writeFlags_dstack (o c : Bool) : (writeFlags o c s).dstack = s.dstack := rfl
@[simp] theorem writeFlags_cstack (o c : Bool) : (writeFlags o c s).cstack = s.cstack := rfl
@[simp] theorem writeFlags_conveyor (o c : Bool) : (writeFlags o c s).conveyor = s.conveyor := rfl
@[simp] theorem writeFlags_buses (o c : Bool) : (writeFlags o c s).buses = s.buses := rfl
@[simp] theorem writeFlags_links (o c : Bool) : (writeFlags o c s).links = s.links := rfl
@[simp] theorem writeFlags_closed (o c : Bool) : (writeFlags o c s).closed = s.closed := rfl
@[simp] theorem writeFlags_reports (o c : Bool) : (writeFlags o c s).reports = s.reports := rfl
@[simp] theorem writeFlags_schedule (o c : Bool) : (writeFlags o c s).schedule = s.schedule := rfl
@[simp] theorem writeFlags_draws (o c : Bool) : (writeFlags o c s).draws = s.draws := rfl

/-! ## push -/

@[simp] theorem push_cfg (w : Int) : (push w s).cfg = s.cfg := rfl
@[simp] theorem push_pc (w : Int) : (push w s).pc = s.pc := rfl
@[simp] theorem push_dcs (w : Int) : (push w s).dcs = s.dcs := rfl
@[simp] theorem push_carry (w : Int) : (push w s).carry = s.carry := rfl
@[simp] theorem push_overflow (w : Int) : (push w s).overflow = s.overflow := rfl
@[simp] theorem push_interrupt (w : Int) : (push w s).interrupt = s.interrupt := rfl
@[simp] theorem push_running (w : Int) : (push w s).running = s.running := rfl
@[simp] theorem push_phase (w : Int) : (push w s).phase = s.phase := rfl
@[simp] theorem push_permission (w : Int) : (push w s).permission = s.permission := rfl
@[simp] theorem push_program (w : Int) : (push w s).program = s.program := rfl
@[simp] theorem push_data (w : Int) : (push w s).data = s.data := rfl
@[simp] theorem push_dstack (w : Int) : (push w s).dstack = s.dstack ++ [w] := rfl
@[simp] theorem push_cstack (w : Int) : (push w s).cstack = s.cstack := rfl
@[simp] theorem push_conveyor (w : Int) : (push w s).conveyor = s.conveyor := rfl
@[simp] theorem push_buses (w : Int) : (push w s).buses = s.buses := rfl
@[simp] theorem push_links (w : Int) : (push w s).links = s.links := rfl
@[simp] theorem push_closed (w : Int) : (push w s).closed = s.closed := rfl
@[simp] theorem push_reports (w : Int) : (push w s).reports = s.reports := rfl
@[simp] theorem push_schedule (w : Int) : (push w s).schedule = s.schedule := rfl
@[simp] theorem push_draws (w : Int) : (push w s).draws = s.draws := rfl

/-! ## pushFrame -/

@[simp] theorem pushFrame_cfg (p : Int) (d : DataCounters) (i : Bool) : (pushFrame p d i s).cfg = s.cfg := rfl
@[simp] theorem pushFrame_pc (p : Int) (d : DataCounters) (i : Bool) : (pushFrame p d i s).pc = s.pc := rfl
@[simp] theorem pushFrame_dcs (p : Int) (d : DataCounters) (i : Bool) : (pushFrame p d i s).dcs = s.dcs := rfl
@[simp] theorem pushFrame_carry (p : Int) (d : DataCounters) (i : Bool) : (pushFrame p d i s).carry = s.carry := rfl
@[simp] theorem pushFrame_overflow (p : Int) (d : DataCounters) (i : Bool) : (pushFrame p d i s).overflow = s.overflow := rfl
@[simp] theorem pushFrame_interrupt (p : Int) (d : DataCounters) (i : Bool) : (pushFrame p d i s).interrupt = s.interrupt := rfl
@[simp] theorem pushFrame_running (p : Int) (d : DataCounters) (i : Bool) : (pushFrame p d i s).running = s.running := rfl
@[simp] theorem pushFrame_phase (p : Int) (d : DataCounters) (i : Bool) : (pushFrame p d i s).phase = s.phase := rfl
@[simp] theorem pushFrame_permission (p : Int) (d : DataCounters) (i : Bool) : (pushFrame p d i s).permission = s.permission := rfl
@[simp] theorem pushFrame_program (p : Int) (d : DataCounters) (i : Bool) : (pushFrame p d i s).program = s.program := rfl
@[simp] theorem pushFrame_data (p : Int) (d : DataCounters) (i : Bool) : (pushFrame p d i s).data = s.data := rfl
@[simp] theorem pushFrame_dstack (p : Int) (d : DataCounters) (i : Bool) : (pushFrame p d i s).dstack = s.dstack := rfl
@[simp] theorem pushFrame_cstack (p : Int) (d : DataCounters) (i : Bool) : (pushFrame p d i s).cstack = s.cstack ++ [Frame.mk p d i] := rfl
@[simp] theorem pushFrame_conveyor (p : Int) (d : DataCounters) (i : Bool) : (pushFrame p d i s).conveyor = s.conveyor := rfl
@[simp] theorem pushFrame_buses (p : Int) (d : DataCounters) (i : Bool) : (pushFrame p d i s).buses = s.buses := rfl
@[simp] theorem pushFrame_links (p : Int) (d : DataCounters) (i : Bool) : (pushFrame p d i s).links = s.links := rfl
@[simp] theorem pushFrame_closed (p : Int) (d : DataCounters) (i : Bool) : (pushFrame p d i s).closed = s.closed := rfl
@[simp] theorem pushFrame_reports (p : Int) (d : DataCounters) (i : Bool) : (pushFrame p d i s).reports = s.reports := rfl
@[simp] theorem pushFrame_schedule (p : Int) (d : DataCounters) (i : Bool) : (pushFrame p d i s).schedule = s.schedule := rfl
@[simp] theorem pushFrame_draws (p : Int) (d : DataCounters) (i : Bool) : (pushFrame p d i s).draws = s.draws := rfl

/-! ## deliver -/

@[simp] theorem deliver_cfg (v b : Int) : (deliver v b s).cfg = s.cfg := rfl
@[simp] theorem deliver_pc (v b : Int) : (deliver v b s).pc = s.pc := rfl
@[simp] theorem deliver_dcs (v b : Int) : (deliver v b s).dcs = s.dcs := rfl
@[simp] theorem deliver_carry (v b : Int) : (deliver v b s).carry = s.carry := rfl
@[simp] theorem deliver_overflow (v b : Int) : (deliver v b s).overflow = s.overflow := rfl
@[simp] theorem deliver_interrupt (v b : Int) : (deliver v b s).interrupt = s.interrupt := rfl
@[simp] theorem deliver_running (v b : Int) : (deliver v b s).running = s.running := rfl
@[simp] theorem deliver_phase (v b : Int) : (deliver v b s).phase = s.phase := rfl
@[simp] theorem deliver_permission (v b : Int) : (deliver v b s).permission = s.permission := rfl
@[simp] theorem deliver_program (v b : Int) : (deliver v b s).program = s.program := rfl
@[simp] theorem deliver_data (v b : Int) : (deliver v b s).data = s.data := rfl
@[simp] theorem deliver_dstack (v b : Int) : (deliver v b s).dstack = s.dstack := rfl
@[simp] theorem deliver_cstack (v b : Int) : (deliver v b s).cstack = s.cstack := rfl
@[simp] theorem deliver_conveyor (v b : Int) : (deliver v b s).conveyor = v :: b :: s.conveyor.dropLast.dropLast := rfl
@[simp] theorem deliver_buses (v b : Int) : (deliver v b s).buses = s.buses := rfl
@[simp] theorem deliver_links (v b : Int) : (deliver v b s).links = s.links := rfl
@[simp] theorem deliver_closed (v b : Int) : (deliver v b s).closed = s.closed := rfl
@[simp] theorem deliver_reports (v b : Int) : (deliver v b s).reports = s.reports := rfl
@[simp] theorem deliver_schedule (v b : Int) : (deliver v b s).schedule = s.schedule := rfl
@[simp] theorem deliver_draws (v b : Int) : (deliver v b s).draws = s.draws := rfl

/-! ## updateLink -/

@[simp] theorem updateLink_cfg (b : Nat) (f : Link → Link) : (updateLink b f s).cfg = s.cfg := rfl
@[simp] theorem updateLink_pc (b : Nat) (f : Link → Link) : (updateLink b f s).pc = s.pc := rfl
@[simp] theorem updateLink_dcs (b : Nat) (f : Link → Link) : (updateLink b f s).dcs = s.dcs := rfl
@[simp] theorem updateLink_carry (b : Nat) (f : Link → Link) : (updateLink b f s).carry = s.carry := rfl
@[simp] theorem updateLink_overflow (b : Nat) (f : Link → Link) : (updateLink b f s).overflow = s.overflow := rfl
@[simp] theorem updateLink_interrupt (b : Nat) (f : Link → Link) : (updateLink b f s).interrupt = s.interrupt := rfl
@[simp] theorem updateLink_running (b : Nat) (f : Link → Link) : (updateLink b f s).running = s.running := rfl
@[simp] theorem updateLink_phase (b : Nat) (f : Link → Link) : (updateLink b f s).phase = s.phase := rfl
@[simp] theorem updateLink_permission (b : Nat) (f : Link → Link) : (updateLink b f s).permission = s.permission := rfl
@[simp] theorem updateLink_program (b : Nat) (f : Link → Link) : (updateLink b f s).program = s.program := rfl
@[simp] theorem updateLink_data (b : Nat) (f : Link → Link) : (updateLink b f s).data = s.data := rfl
@[simp] theorem updateLink_dstack (b : Nat) (f : Link → Link) : (updateLink b f s).dstack = s.dstack := rfl
@[simp] theorem updateLink_cstack (b : Nat) (f : Link → Link) : (updateLink b f s).cstack = s.cstack := rfl
@[simp] theorem updateLink_conveyor (b : Nat) (f : Link → Link) : (updateLink b f s).conveyor = s.conveyor := rfl
@[simp] theorem updateLink_buses (b : Nat) (f : Link → Link) : (updateLink b f s).buses = s.buses := rfl
@[simp] theorem updateLink_links (b : Nat) (f : Link → Link) : (updateLink b f s).links = s.links.modify b f := rfl
@[simp] theorem updateLink_closed (b : Nat) (f : Link → Link) : (updateLink b f s).closed = s.closed := rfl
@[simp] theorem updateLink_reports (b : Nat) (f : Link → Link) : (updateLink b f s).reports = s.reports := rfl
@[simp] theorem updateLink_schedule (b : Nat) (f : Link → Link) : (updateLink b f s).schedule = s.schedule := rfl
@[simp] theorem updateLink_draws (b : Nat) (f : Link → Link) : (updateLink b f s).draws = s.draws := rfl

/-! ## acceptIncept -/

@[simp] theorem acceptIncept_cfg (b : Nat) : (acceptIncept b s).cfg = s.cfg := rfl
@[simp] theorem acceptIncept_pc (b : Nat) : (acceptIncept b s).pc = s.pc := rfl
@[simp] theorem acceptIncept_dcs (b : Nat) : (acceptIncept b s).dcs = s.dcs := rfl
@[simp] theorem acceptIncept_carry (b : Nat) : (acceptIncept b s).carry = s.carry := rfl
@[simp] theorem acceptIncept_overflow (b : Nat) : (acceptIncept b s).overflow = s.overflow := rfl
@[simp] theorem acceptIncept_interrupt (b : Nat) : (acceptIncept b s).interrupt = s.interrupt := rfl
@[simp] theorem acceptIncept_running (b : Nat) : (acceptIncept b s).running = s.running := rfl
@[simp] theorem acceptIncept_phase (b : Nat) : (acceptIncept b s).phase = s.phase := rfl
@[simp] theorem acceptIncept_permission (b : Nat) : (acceptIncept b s).permission = s.permission := rfl
@[simp] theorem acceptIncept_program (b : Nat) : (acceptIncept b s).program = s.program := rfl
@[simp] theorem acceptIncept_data (b : Nat) : (acceptIncept b s).data = s.data := rfl
@[simp] theorem acceptIncept_dstack (b : Nat) : (acceptIncept b s).dstack = s.dstack := rfl
@[simp] theorem acceptIncept_cstack (b : Nat) : (acceptIncept b s).cstack = s.cstack := rfl
@[simp] theorem acceptIncept_conveyor (b : Nat) : (acceptIncept b s).conveyor = s.conveyor := rfl
@[simp] theorem acceptIncept_buses (b : Nat) : (acceptIncept b s).buses = s.buses := rfl
@[simp] theorem acceptIncept_links (b : Nat) : (acceptIncept b s).links = s.links.modify b fun l => { l with incept := none } := rfl
@[simp] theorem acceptIncept_closed (b : Nat) : (acceptIncept b s).closed = s.closed := rfl
@[simp] theorem acceptIncept_reports (b : Nat) : (acceptIncept b s).reports = s.reports := rfl
@[simp] theorem acceptIncept_schedule (b : Nat) : (acceptIncept b s).schedule = s.schedule := rfl
@[simp] theorem acceptIncept_draws (b : Nat) : (acceptIncept b s).draws = s.draws + 1 := rfl

/-! ## acceptKill -/

@[simp] theorem acceptKill_cfg (b : Nat) : (acceptKill b s).cfg = s.cfg := rfl
@[simp] theorem acceptKill_pc (b : Nat) : (acceptKill b s).pc = s.pc := rfl
@[simp] theorem acceptKill_dcs (b : Nat) : (acceptKill b s).dcs = s.dcs := rfl
@[simp] theorem acceptKill_carry (b : Nat) : (acceptKill b s).carry = s.carry := rfl
@[simp] theorem acceptKill_overflow (b : Nat) : (acceptKill b s).overflow = s.overflow := rfl
@[simp] theorem acceptKill_interrupt (b : Nat) : (acceptKill b s).interrupt = s.interrupt := rfl
@[simp] theorem acceptKill_running (b : Nat) : (acceptKill b s).running = s.running := rfl
@[simp] theorem acceptKill_phase (b : Nat) : (acceptKill b s).phase = s.phase := rfl
@[simp] theorem acceptKill_permission (b : Nat) : (acceptKill b s).permission = s.permission := rfl
@[simp] theorem acceptKill_program (b : Nat) : (acceptKill b s).program = s.program := rfl
@[simp] theorem acceptKill_data (b : Nat) : (acceptKill b s).data = s.data := rfl
@[simp] theorem acceptKill_dstack (b : Nat) : (acceptKill b s).dstack = s.dstack := rfl
@[simp] theorem acceptKill_cstack (b : Nat) : (acceptKill b s).cstack = s.cstack := rfl
@[simp] theorem acceptKill_conveyor (b : Nat) : (acceptKill b s).conveyor = s.conveyor := rfl
@[simp] theorem acceptKill_buses (b : Nat) : (acceptKill b s).buses = s.buses := rfl
@[simp] theorem acceptKill_links (b : Nat) : (acceptKill b s).links = s.links.modify b fun l => { l with kill := none } := rfl
@[simp] theorem acceptKill_closed (b : Nat) : (acceptKill b s).closed = s.closed := rfl
@[simp] theorem acceptKill_reports (b : Nat) : (acceptKill b s).reports = s.reports := rfl
@[simp] theorem acceptKill_schedule (b : Nat) : (acceptKill b s).schedule = s.schedule := rfl
@[simp] theorem acceptKill_draws (b : Nat) : (acceptKill b s).draws = s.draws + 1 := rfl

/-! ## acceptSend -/

@[simp] theorem acceptSend_cfg (b : Nat) : (acceptSend b s).cfg = s.cfg := rfl
@[simp] theorem acceptSend_pc (b : Nat) : (acceptSend b s).pc = s.pc := rfl
@[simp] theorem acceptSend_dcs (b : Nat) : (acceptSend b s).dcs = s.dcs := rfl
@[simp] theorem acceptSend_carry (b : Nat) : (acceptSend b s).carry = s.carry := rfl
@[simp] theorem acceptSend_overflow (b : Nat) : (acceptSend b s).overflow = s.overflow := rfl
@[simp] theorem acceptSend_interrupt (b : Nat) : (acceptSend b s).interrupt = s.interrupt := rfl
@[simp] theorem acceptSend_running (b : Nat) : (acceptSend b s).running = s.running := rfl
@[simp] theorem acceptSend_phase (b : Nat) : (acceptSend b s).phase = s.phase := rfl
@[simp] theorem acceptSend_permission (b : Nat) : (acceptSend b s).permission = s.permission := rfl
@[simp] theorem acceptSend_program (b : Nat) : (acceptSend b s).program = s.program := rfl
@[simp] theorem acceptSend_data (b : Nat) : (acceptSend b s).data = s.data := rfl
@[simp] theorem acceptSend_dstack (b : Nat) : (acceptSend b s).dstack = s.dstack := rfl
@[simp] theorem acceptSend_cstack (b : Nat) : (acceptSend b s).cstack = s.cstack := rfl
@[simp] theorem acceptSend_conveyor (b : Nat) : (acceptSend b s).conveyor = s.conveyor := rfl
@[simp] theorem acceptSend_buses (b : Nat) : (acceptSend b s).buses = s.buses := rfl
@[simp] theorem acceptSend_links (b : Nat) : (acceptSend b s).links = s.links.modify b fun l => { l with send := none } := rfl
@[simp] theorem acceptSend_closed (b : Nat) : (acceptSend b s).closed = s.closed := rfl
@[simp] theorem acceptSend_reports (b : Nat) : (acceptSend b s).reports = s.reports := rfl
@[simp] theorem acceptSend_schedule (b : Nat) : (acceptSend b s).schedule = s.schedule := rfl
@[simp] theorem acceptSend_draws (b : Nat) : (acceptSend b s).draws = s.draws + 1 := rfl

/-! ## takeFault -/

@[simp] theorem takeFault_cfg (e : Raise) : (takeFault e s).cfg = s.cfg := rfl
@[simp] theorem takeFault_pc (e : Raise) : (takeFault e s).pc = s.pc := rfl
@[simp] theorem takeFault_dcs (e : Raise) : (takeFault e s).dcs = s.dcs := rfl
@[simp] theorem takeFault_carry (e : Raise) : (takeFault e s).carry = s.carry := rfl
@[simp] theorem takeFault_overflow (e : Raise) : (takeFault e s).overflow = s.overflow := rfl
@[simp] theorem takeFault_interrupt (e : Raise) : (takeFault e s).interrupt = s.interrupt := rfl
@[simp] theorem takeFault_running (e : Raise) : (takeFault e s).running = false := rfl
@[simp] theorem takeFault_phase (e : Raise) : (takeFault e s).phase = .faulted e.kind s.pc := rfl
@[simp] theorem takeFault_permission (e : Raise) : (takeFault e s).permission = s.permission := rfl
@[simp] theorem takeFault_program (e : Raise) : (takeFault e s).program = s.program := rfl
@[simp] theorem takeFault_data (e : Raise) : (takeFault e s).data = s.data := rfl
@[simp] theorem takeFault_dstack (e : Raise) : (takeFault e s).dstack = s.dstack := rfl
@[simp] theorem takeFault_cstack (e : Raise) : (takeFault e s).cstack = s.cstack := rfl
@[simp] theorem takeFault_conveyor (e : Raise) : (takeFault e s).conveyor = s.conveyor := rfl
@[simp] theorem takeFault_buses (e : Raise) : (takeFault e s).buses = s.buses := rfl
@[simp] theorem takeFault_links (e : Raise) : (takeFault e s).links = s.links := rfl
@[simp] theorem takeFault_closed (e : Raise) : (takeFault e s).closed = s.closed := rfl
@[simp] theorem takeFault_reports (e : Raise) : (takeFault e s).reports = s.reports ++ [Report.mk (errorCode e.kind) s.pc e.value] := rfl
@[simp] theorem takeFault_schedule (e : Raise) : (takeFault e s).schedule = s.schedule := rfl
@[simp] theorem takeFault_draws (e : Raise) : (takeFault e s).draws = s.draws := rfl

/-! ## restoreFrame -/

@[simp] theorem restoreFrame_cfg (fr : Frame) : (restoreFrame fr s).cfg = s.cfg := rfl
@[simp] theorem restoreFrame_pc (fr : Frame) : (restoreFrame fr s).pc = wadd s.cfg.xlen fr.pc Config.retResumeOffset := rfl
@[simp] theorem restoreFrame_dcs (fr : Frame) : (restoreFrame fr s).dcs = fr.dcs := rfl
@[simp] theorem restoreFrame_carry (fr : Frame) : (restoreFrame fr s).carry = s.carry := rfl
@[simp] theorem restoreFrame_overflow (fr : Frame) : (restoreFrame fr s).overflow = s.overflow := rfl
@[simp] theorem restoreFrame_interrupt (fr : Frame) : (restoreFrame fr s).interrupt = (s.interrupt || fr.interrupt) := rfl
@[simp] theorem restoreFrame_running (fr : Frame) : (restoreFrame fr s).running = s.running := rfl
@[simp] theorem restoreFrame_phase (fr : Frame) : (restoreFrame fr s).phase = s.phase := rfl
@[simp] theorem restoreFrame_permission (fr : Frame) : (restoreFrame fr s).permission = s.permission := rfl
@[simp] theorem restoreFrame_program (fr : Frame) : (restoreFrame fr s).program = s.program := rfl
@[simp] theorem restoreFrame_data (fr : Frame) : (restoreFrame fr s).data = s.data := rfl
@[simp] theorem restoreFrame_dstack (fr : Frame) : (restoreFrame fr s).dstack = s.dstack := rfl
@[simp] theorem restoreFrame_cstack (fr : Frame) : (restoreFrame fr s).cstack = s.cstack := rfl
@[simp] theorem restoreFrame_conveyor (fr : Frame) : (restoreFrame fr s).conveyor = s.conveyor := rfl
@[simp] theorem restoreFrame_buses (fr : Frame) : (restoreFrame fr s).buses = s.buses := rfl
@[simp] theorem restoreFrame_links (fr : Frame) : (restoreFrame fr s).links = s.links := rfl
@[simp] theorem restoreFrame_closed (fr : Frame) : (restoreFrame fr s).closed = s.closed := rfl
@[simp] theorem restoreFrame_reports (fr : Frame) : (restoreFrame fr s).reports = s.reports := rfl
@[simp] theorem restoreFrame_schedule (fr : Frame) : (restoreFrame fr s).schedule = s.schedule := rfl
@[simp] theorem restoreFrame_draws (fr : Frame) : (restoreFrame fr s).draws = s.draws := rfl

/-! ## enableSelected -/

@[simp] theorem enableSelected_cfg : (enableSelected s).cfg = s.cfg := rfl
@[simp] theorem enableSelected_pc : (enableSelected s).pc = s.pc := rfl
@[simp] theorem enableSelected_dcs : (enableSelected s).dcs = s.dcs := rfl
@[simp] theorem enableSelected_carry : (enableSelected s).carry = s.carry := rfl
@[simp] theorem enableSelected_overflow : (enableSelected s).overflow = s.overflow := rfl
@[simp] theorem enableSelected_interrupt : (enableSelected s).interrupt = s.interrupt := rfl
@[simp] theorem enableSelected_running : (enableSelected s).running = s.running := rfl
@[simp] theorem enableSelected_phase : (enableSelected s).phase = s.phase := rfl
@[simp] theorem enableSelected_permission : (enableSelected s).permission = s.permission := rfl
@[simp] theorem enableSelected_program : (enableSelected s).program = s.program := rfl
@[simp] theorem enableSelected_data : (enableSelected s).data = s.data := rfl
@[simp] theorem enableSelected_dstack : (enableSelected s).dstack = s.dstack := rfl
@[simp] theorem enableSelected_cstack : (enableSelected s).cstack = s.cstack := rfl
@[simp] theorem enableSelected_conveyor : (enableSelected s).conveyor = s.conveyor := rfl
@[simp] theorem enableSelected_buses : (enableSelected s).buses = s.buses.map fun b => { b with enabled := b.enabled || b.selected } := rfl
@[simp] theorem enableSelected_links : (enableSelected s).links = s.links := rfl
@[simp] theorem enableSelected_closed : (enableSelected s).closed = s.closed := rfl
@[simp] theorem enableSelected_reports : (enableSelected s).reports = s.reports := rfl
@[simp] theorem enableSelected_schedule : (enableSelected s).schedule = s.schedule := rfl
@[simp] theorem enableSelected_draws : (enableSelected s).draws = s.draws := rfl

/-! ## disableAll -/

@[simp] theorem disableAll_cfg : (disableAll s).cfg = s.cfg := rfl
@[simp] theorem disableAll_pc : (disableAll s).pc = s.pc := rfl
@[simp] theorem disableAll_dcs : (disableAll s).dcs = s.dcs := rfl
@[simp] theorem disableAll_carry : (disableAll s).carry = s.carry := rfl
@[simp] theorem disableAll_overflow : (disableAll s).overflow = s.overflow := rfl
@[simp] theorem disableAll_interrupt : (disableAll s).interrupt = s.interrupt := rfl
@[simp] theorem disableAll_running : (disableAll s).running = s.running := rfl
@[simp] theorem disableAll_phase : (disableAll s).phase = s.phase := rfl
@[simp] theorem disableAll_permission : (disableAll s).permission = s.permission := rfl
@[simp] theorem disableAll_program : (disableAll s).program = s.program := rfl
@[simp] theorem disableAll_data : (disableAll s).data = s.data := rfl
@[simp] theorem disableAll_dstack : (disableAll s).dstack = s.dstack := rfl
@[simp] theorem disableAll_cstack : (disableAll s).cstack = s.cstack := rfl
@[simp] theorem disableAll_conveyor : (disableAll s).conveyor = s.conveyor := rfl
@[simp] theorem disableAll_buses : (disableAll s).buses = s.buses.map fun b => { b with enabled := false } := rfl
@[simp] theorem disableAll_links : (disableAll s).links = s.links := rfl
@[simp] theorem disableAll_closed : (disableAll s).closed = s.closed := rfl
@[simp] theorem disableAll_reports : (disableAll s).reports = s.reports := rfl
@[simp] theorem disableAll_schedule : (disableAll s).schedule = s.schedule := rfl
@[simp] theorem disableAll_draws : (disableAll s).draws = s.draws := rfl

/-! ## memWrite -/

@[simp] theorem memWrite_cfg (a : Nat) (v : Int) : (memWrite a v s).cfg = s.cfg := rfl
@[simp] theorem memWrite_pc (a : Nat) (v : Int) : (memWrite a v s).pc = s.pc := rfl
@[simp] theorem memWrite_dcs (a : Nat) (v : Int) : (memWrite a v s).dcs = s.dcs := rfl
@[simp] theorem memWrite_carry (a : Nat) (v : Int) : (memWrite a v s).carry = s.carry := rfl
@[simp] theorem memWrite_overflow (a : Nat) (v : Int) : (memWrite a v s).overflow = s.overflow := rfl
@[simp] theorem memWrite_interrupt (a : Nat) (v : Int) : (memWrite a v s).interrupt = s.interrupt := rfl
@[simp] theorem memWrite_running (a : Nat) (v : Int) : (memWrite a v s).running = s.running := rfl
@[simp] theorem memWrite_phase (a : Nat) (v : Int) : (memWrite a v s).phase = s.phase := rfl
@[simp] theorem memWrite_permission (a : Nat) (v : Int) : (memWrite a v s).permission = s.permission := rfl
@[simp] theorem memWrite_program (a : Nat) (v : Int) : (memWrite a v s).program = s.program := rfl
@[simp] theorem memWrite_data (a : Nat) (v : Int) : (memWrite a v s).data = s.data.write a v := rfl
@[simp] theorem memWrite_dstack (a : Nat) (v : Int) : (memWrite a v s).dstack = s.dstack := rfl
@[simp] theorem memWrite_cstack (a : Nat) (v : Int) : (memWrite a v s).cstack = s.cstack := rfl
@[simp] theorem memWrite_conveyor (a : Nat) (v : Int) : (memWrite a v s).conveyor = s.conveyor := rfl
@[simp] theorem memWrite_buses (a : Nat) (v : Int) : (memWrite a v s).buses = s.buses := rfl
@[simp] theorem memWrite_links (a : Nat) (v : Int) : (memWrite a v s).links = s.links := rfl
@[simp] theorem memWrite_closed (a : Nat) (v : Int) : (memWrite a v s).closed = s.closed := rfl
@[simp] theorem memWrite_reports (a : Nat) (v : Int) : (memWrite a v s).reports = s.reports := rfl
@[simp] theorem memWrite_schedule (a : Nat) (v : Int) : (memWrite a v s).schedule = s.schedule := rfl
@[simp] theorem memWrite_draws (a : Nat) (v : Int) : (memWrite a v s).draws = s.draws := rfl

/-! ## beginLoading -/

@[simp] theorem beginLoading_cfg (t : Permission) : (beginLoading t s).cfg = s.cfg := rfl
@[simp] theorem beginLoading_pc (t : Permission) : (beginLoading t s).pc = s.pc := rfl
@[simp] theorem beginLoading_dcs (t : Permission) : (beginLoading t s).dcs = s.dcs := rfl
@[simp] theorem beginLoading_carry (t : Permission) : (beginLoading t s).carry = s.carry := rfl
@[simp] theorem beginLoading_overflow (t : Permission) : (beginLoading t s).overflow = s.overflow := rfl
@[simp] theorem beginLoading_interrupt (t : Permission) : (beginLoading t s).interrupt = s.interrupt := rfl
@[simp] theorem beginLoading_running (t : Permission) : (beginLoading t s).running = s.running := rfl
@[simp] theorem beginLoading_phase (t : Permission) : (beginLoading t s).phase = .loading := rfl
@[simp] theorem beginLoading_permission (t : Permission) : (beginLoading t s).permission = t := rfl
@[simp] theorem beginLoading_program (t : Permission) : (beginLoading t s).program = [] := rfl
@[simp] theorem beginLoading_data (t : Permission) : (beginLoading t s).data = s.data := rfl
@[simp] theorem beginLoading_dstack (t : Permission) : (beginLoading t s).dstack = s.dstack := rfl
@[simp] theorem beginLoading_cstack (t : Permission) : (beginLoading t s).cstack = s.cstack := rfl
@[simp] theorem beginLoading_conveyor (t : Permission) : (beginLoading t s).conveyor = s.conveyor := rfl
@[simp] theorem beginLoading_buses (t : Permission) : (beginLoading t s).buses = s.buses := rfl
@[simp] theorem beginLoading_links (t : Permission) : (beginLoading t s).links = s.links := rfl
@[simp] theorem beginLoading_closed (t : Permission) : (beginLoading t s).closed = s.closed := rfl
@[simp] theorem beginLoading_reports (t : Permission) : (beginLoading t s).reports = s.reports := rfl
@[simp] theorem beginLoading_schedule (t : Permission) : (beginLoading t s).schedule = s.schedule := rfl
@[simp] theorem beginLoading_draws (t : Permission) : (beginLoading t s).draws = s.draws := rfl

/-! ## installContext -/

@[simp] theorem installContext_cfg (c : Context) : (installContext c s).cfg = s.cfg := rfl
@[simp] theorem installContext_pc (c : Context) : (installContext c s).pc = c.pc := rfl
@[simp] theorem installContext_dcs (c : Context) : (installContext c s).dcs = c.dcs := rfl
@[simp] theorem installContext_carry (c : Context) : (installContext c s).carry = c.carry := rfl
@[simp] theorem installContext_overflow (c : Context) : (installContext c s).overflow = c.overflow := rfl
@[simp] theorem installContext_interrupt (c : Context) : (installContext c s).interrupt = c.interrupt := rfl
@[simp] theorem installContext_running (c : Context) : (installContext c s).running = s.running := rfl
@[simp] theorem installContext_phase (c : Context) : (installContext c s).phase = s.phase := rfl
@[simp] theorem installContext_permission (c : Context) : (installContext c s).permission = s.permission := rfl
@[simp] theorem installContext_program (c : Context) : (installContext c s).program = c.program := rfl
@[simp] theorem installContext_data (c : Context) : (installContext c s).data = s.data := rfl
@[simp] theorem installContext_dstack (c : Context) : (installContext c s).dstack = c.dstack := rfl
@[simp] theorem installContext_cstack (c : Context) : (installContext c s).cstack = c.cstack := rfl
@[simp] theorem installContext_conveyor (c : Context) : (installContext c s).conveyor = s.conveyor := rfl
@[simp] theorem installContext_buses (c : Context) : (installContext c s).buses = s.buses := rfl
@[simp] theorem installContext_links (c : Context) : (installContext c s).links = s.links := rfl
@[simp] theorem installContext_closed (c : Context) : (installContext c s).closed = s.closed := rfl
@[simp] theorem installContext_reports (c : Context) : (installContext c s).reports = s.reports := rfl
@[simp] theorem installContext_schedule (c : Context) : (installContext c s).schedule = s.schedule := rfl
@[simp] theorem installContext_draws (c : Context) : (installContext c s).draws = s.draws := rfl

/-! ## spendTurn -/

@[simp] theorem spendTurn_cfg : (spendTurn s).cfg = s.cfg := rfl
@[simp] theorem spendTurn_pc : (spendTurn s).pc = s.pc := rfl
@[simp] theorem spendTurn_dcs : (spendTurn s).dcs = s.dcs := rfl
@[simp] theorem spendTurn_carry : (spendTurn s).carry = s.carry := rfl
@[simp] theorem spendTurn_overflow : (spendTurn s).overflow = s.overflow := rfl
@[simp] theorem spendTurn_interrupt : (spendTurn s).interrupt = s.interrupt := rfl
@[simp] theorem spendTurn_running : (spendTurn s).running = s.running := rfl
@[simp] theorem spendTurn_phase : (spendTurn s).phase = s.phase := rfl
@[simp] theorem spendTurn_permission : (spendTurn s).permission = s.permission := rfl
@[simp] theorem spendTurn_program : (spendTurn s).program = s.program := rfl
@[simp] theorem spendTurn_data : (spendTurn s).data = s.data := rfl
@[simp] theorem spendTurn_dstack : (spendTurn s).dstack = s.dstack := rfl
@[simp] theorem spendTurn_cstack : (spendTurn s).cstack = s.cstack := rfl
@[simp] theorem spendTurn_conveyor : (spendTurn s).conveyor = s.conveyor := rfl
@[simp] theorem spendTurn_buses : (spendTurn s).buses = s.buses := rfl
@[simp] theorem spendTurn_links : (spendTurn s).links = s.links := rfl
@[simp] theorem spendTurn_closed : (spendTurn s).closed = s.closed := rfl
@[simp] theorem spendTurn_reports : (spendTurn s).reports = s.reports := rfl
@[simp] theorem spendTurn_schedule : (spendTurn s).schedule = s.schedule.tail := rfl
@[simp] theorem spendTurn_draws : (spendTurn s).draws = s.draws := rfl

/-! ## honourKill -/

@[simp] theorem honourKill_cfg : (honourKill s).cfg = s.cfg := rfl
@[simp] theorem honourKill_pc : (honourKill s).pc = (discardedContext s).pc := rfl
@[simp] theorem honourKill_dcs : (honourKill s).dcs = (discardedContext s).dcs := rfl
@[simp] theorem honourKill_carry : (honourKill s).carry = (discardedContext s).carry := rfl
@[simp] theorem honourKill_overflow : (honourKill s).overflow = (discardedContext s).overflow := rfl
@[simp] theorem honourKill_interrupt : (honourKill s).interrupt = (discardedContext s).interrupt := rfl
@[simp] theorem honourKill_running : (honourKill s).running = false := rfl
@[simp] theorem honourKill_phase : (honourKill s).phase = .awaitingInception := rfl
@[simp] theorem honourKill_permission : (honourKill s).permission = s.permission := rfl
@[simp] theorem honourKill_program : (honourKill s).program = (discardedContext s).program := rfl
@[simp] theorem honourKill_data : (honourKill s).data = s.data := rfl
@[simp] theorem honourKill_dstack : (honourKill s).dstack = (discardedContext s).dstack := rfl
@[simp] theorem honourKill_cstack : (honourKill s).cstack = (discardedContext s).cstack := rfl
@[simp] theorem honourKill_conveyor : (honourKill s).conveyor = s.conveyor := rfl
@[simp] theorem honourKill_buses : (honourKill s).buses = s.buses := rfl
@[simp] theorem honourKill_links : (honourKill s).links = s.links := rfl
@[simp] theorem honourKill_closed : (honourKill s).closed = s.closed := rfl
@[simp] theorem honourKill_reports : (honourKill s).reports = s.reports := rfl
@[simp] theorem honourKill_schedule : (honourKill s).schedule = s.schedule := rfl
@[simp] theorem honourKill_draws : (honourKill s).draws = s.draws := rfl

end Sys2Proof.Machine
end

