-- ==== Sys2Proof/Laws/Ops.lean ====
section
/-! SUPPORT. Sys2Proof/Laws/Ops.lean: for each shared operation, one lemma that says once everything
it can do. -/

namespace Sys2Proof.Machine

/-! ## Memory and fetch -/

/-- `memRead` answers the Word of an address in range, and raises on every other (R62). -/
theorem memRead_cases (s : State) (addr : Int) :
    (0 ≤ addr ∧ addr < s.cfg.memSize ∧ memRead s addr = .ok (s.data.read addr.toNat)) ∨
    ((addr < 0 ∨ s.cfg.memSize ≤ addr) ∧
      memRead s addr = .error { kind := .addressOutOfRange, value := .address addr }) := by
  unfold memRead
  split
  · rename_i h
    exact .inl ⟨h.1, h.2, rfl⟩
  · rename_i h
    exact .inr ⟨by omega, rfl⟩

theorem memRead_of_inRange {s : State} {addr : Int} (h1 : 0 ≤ addr) (h2 : addr < s.cfg.memSize) :
    memRead s addr = .ok (s.data.read addr.toNat) := if_pos ⟨h1, h2⟩

theorem memRead_of_outOfRange {s : State} {addr : Int} (h : addr < 0 ∨ s.cfg.memSize ≤ addr) :
    memRead s addr = .error { kind := .addressOutOfRange, value := .address addr } :=
  if_neg (by omega)

/-- `progRead` answers the byte at an index of the program, and raises on every other (R61). -/
theorem progRead_cases (s : State) (i : Int) :
    (∃ op, 0 ≤ i ∧ s.program[i.toNat]? = some op ∧ progRead s i = .ok op) ∨
    ((i < 0 ∨ s.program.length ≤ i) ∧
      progRead s i = .error { kind := .fetchOutOfRange, value := .address i }) := by
  unfold progRead
  split
  · rename_i h
    cases hp : s.program[i.toNat]? with
    | some op => exact .inl ⟨op, h, rfl, rfl⟩
    | none =>
      rw [List.getElem?_eq_none_iff] at hp
      exact .inr ⟨by omega, rfl⟩
  · rename_i h
    exact .inr ⟨by omega, rfl⟩

/-- The fetch gives an instruction of the opcode map, or raises FetchOutOfRange with the pc (R209). -/
theorem fetch_cases (s : State) :
    (∃ op, 0 ≤ s.pc ∧ s.program[s.pc.toNat]? = some op ∧ fetch s = .ok (decodeByte op)) ∨
    ((s.pc < 0 ∨ s.program.length ≤ s.pc) ∧
      fetch s = .error { kind := .fetchOutOfRange, value := .address s.pc }) := by
  unfold fetch
  rcases progRead_cases s s.pc with ⟨op, h1, h2, h3⟩ | ⟨h1, h2⟩
  · exact .inl ⟨op, h1, h2, by rw [h3]⟩
  · exact .inr ⟨h1, by rw [h2]⟩

theorem fetch_of_byte {s : State} {op : Byte} (h1 : 0 ≤ s.pc) (h2 : s.program[s.pc.toNat]? = some op) :
    fetch s = .ok (decodeByte op) := by
  simp [fetch, progRead, h1, h2]

theorem fetch_of_outside {s : State} (h : s.pc < 0 ∨ s.program.length ≤ s.pc) :
    fetch s = .error { kind := .fetchOutOfRange, value := .address s.pc } := by
  rcases fetch_cases s with ⟨op, h1, h2, -⟩ | ⟨-, h2⟩
  · have := (List.getElem?_eq_some_iff.1 h2).1
    omega
  · exact h2

/-! ## Stacks -/

/-- A data stack is empty, or has a top above a rest; `top` tells which (R101). -/
theorem top_cases (s : State) :
    (s.dstack = [] ∧ top s = .error { kind := .stackUnderflow, value := .nothing }) ∨
    ∃ rest v, s.dstack = rest ++ [v] ∧ top s = .ok v := by
  rcases List.eq_nil_or_concat s.dstack with h | ⟨rest, v, h⟩
  · exact .inl ⟨h, by simp [top, h]⟩
  · exact .inr ⟨rest, v, by simpa using h, by simp [top, h]⟩

theorem top_of_append {s : State} {rest : List Int} {v : Int} (h : s.dstack = rest ++ [v]) :
    top s = .ok v := by simp [top, h]

theorem top_of_nil {s : State} (h : s.dstack = []) :
    top s = .error { kind := .stackUnderflow, value := .nothing } := by simp [top, h]

theorem replaceTop_of_append {s : State} {rest : List Int} {v : Int} (h : s.dstack = rest ++ [v])
    (r : Int) : replaceTop r s = { s with dstack := rest ++ [r] } := by simp [replaceTop, h]

/-- `pop_transform(f)` raises for an empty stack, raises what `f` raises, or replaces the top (R101). -/
theorem popTransform_cases (f : Int → Except Raise Int) (s : State) :
    (s.dstack = [] ∧ popTransform f s = .error { kind := .stackUnderflow, value := .nothing }) ∨
    (∃ rest v e, s.dstack = rest ++ [v] ∧ f v = .error e ∧ popTransform f s = .error e) ∨
    ∃ rest v r, s.dstack = rest ++ [v] ∧ f v = .ok r ∧
      popTransform f s = .ok { s with dstack := rest ++ [r] } := by
  unfold popTransform
  rcases top_cases s with ⟨h, ht⟩ | ⟨rest, v, h, ht⟩
  · exact .inl ⟨h, by rw [ht]⟩
  · rw [ht]
    cases hf : f v with
    | error e => exact .inr (.inl ⟨rest, v, e, h, hf, by simp [hf]⟩)
    | ok r => exact .inr (.inr ⟨rest, v, r, h, hf, by simp [hf, replaceTop_of_append h]⟩)

/-- The flag-writing transform of the top, as `popTransform_cases` (R132 to R136). -/
theorem transformTop_cases (f : Int → Except Raise Alu) (s : State) :
    (s.dstack = [] ∧ transformTop f s = .error { kind := .stackUnderflow, value := .nothing }) ∨
    (∃ rest v e, s.dstack = rest ++ [v] ∧ f v = .error e ∧ transformTop f s = .error e) ∨
    ∃ rest v a, s.dstack = rest ++ [v] ∧ f v = .ok a ∧
      transformTop f s =
        .ok { s with dstack := rest ++ [a.result], overflow := a.overflow, carry := a.carry } := by
  unfold transformTop
  rcases top_cases s with ⟨h, ht⟩ | ⟨rest, v, h, ht⟩
  · exact .inl ⟨h, by rw [ht]⟩
  · rw [ht]
    cases hf : f v with
    | error e => exact .inr (.inl ⟨rest, v, e, h, hf, by simp [hf]⟩)
    | ok a => exact .inr (.inr ⟨rest, v, a, h, hf, by simp [hf, replaceTop_of_append h, writeFlags]⟩)

/-- `push` makes the pushed Word the top (R100). -/
theorem push_top (w : Int) (s : State) : top (push w s) = .ok w := by simp [top, push]

/-- `rotate` and `copy` refuse the same positions (R102, R103). -/
theorem rotate_error_iff_copy_error (pos : Nat) (s : State) :
    (∃ e, rotate pos s = .error e) ↔ ∃ e, copy pos s = .error e := by
  unfold rotate copy
  by_cases h : pos + 1 ≥ s.dstack.length <;> simp [h]

/-- `rotate(pos)` raises IndexOutOfRange(pos), or changes only the order of the data stack (R102). -/
theorem rotate_cases (pos : Nat) (s : State) :
    (s.dstack.length ≤ pos + 1 ∧
      rotate pos s = .error { kind := .indexOutOfRange, value := .position pos }) ∨
    ∃ l, pos + 1 < s.dstack.length ∧ l.length = s.dstack.length ∧
      rotate pos s = .ok { s with dstack := l } := by
  unfold rotate
  by_cases h : pos + 1 ≥ s.dstack.length
  · exact .inl ⟨h, by simp [h]⟩
  · refine .inr ⟨_, by omega, ?_, by simp only [h, if_false]; rfl⟩
    simp
    omega

/-- `copy(pos)` raises IndexOutOfRange(pos), or grows the data stack by one (R103). -/
theorem copy_cases (pos : Nat) (s : State) :
    (s.dstack.length ≤ pos + 1 ∧
      copy pos s = .error { kind := .indexOutOfRange, value := .position pos }) ∨
    ∃ w, w ∈ s.dstack ∧ pos + 1 < s.dstack.length ∧
      copy pos s = .ok { s with dstack := s.dstack ++ [w] } := by
  unfold copy
  by_cases h : pos + 1 ≥ s.dstack.length
  · exact .inl ⟨h, by simp [h]⟩
  · have hi : s.dstack.length - 1 - pos < s.dstack.length := by omega
    refine .inr ⟨s.dstack[s.dstack.length - 1 - pos], List.getElem_mem hi, by omega, ?_⟩
    have htake : (s.dstack.drop (s.dstack.length - 1 - pos)).take 1 =
        [s.dstack[s.dstack.length - 1 - pos]] := by
      rw [List.drop_eq_getElem_cons hi]
      rfl
    simp only [h, if_false, htake]

/-- `pop_frame()` raises for an empty call stack, or gives its top frame (R107). -/
theorem popFrame_cases (s : State) :
    (s.cstack = [] ∧ popFrame s = .error { kind := .callStackUnderflow, value := .nothing }) ∨
    ∃ rest fr, s.cstack = rest ++ [fr] ∧ popFrame s = .ok (fr, { s with cstack := rest }) := by
  rcases List.eq_nil_or_concat s.cstack with h | ⟨rest, fr, h⟩
  · exact .inl ⟨h, by simp [popFrame, h]⟩
  · exact .inr ⟨rest, fr, by simpa using h, by simp [popFrame, h]⟩

/-! ## How a meaning ends -/

/-- `conclude` always answers a next state: the completed instruction's, or the fault entry's. -/
theorem conclude_cases (s : State) (r : Except Raise State) :
    (∃ t, r = .ok t ∧ conclude s r = .next (advance t)) ∨
    ∃ e, r = .error e ∧ conclude s r = .next (takeFault e s) := by
  cases r with
  | ok t => exact .inl ⟨t, rfl, rfl⟩
  | error e => exact .inr ⟨e, rfl, rfl⟩

@[simp] theorem conclude_ok (s t : State) : conclude s (.ok t) = .next (advance t) := rfl
@[simp] theorem conclude_error (s : State) (e : Raise) :
    conclude s (.error e) = .next (takeFault e s) := rfl

/-! ## Offers -/

/-- `choose` gives an element of a list that has one, and nothing of an empty one (R7). -/
theorem choose_cases {α : Type} (d : Nat) (l : List α) :
    (l = [] ∧ choose d l = none) ∨ ∃ x ∈ l, choose d l = some x := by
  match l with
  | [] => exact .inl ⟨rfl, rfl⟩
  | [x] => exact .inr ⟨x, by simp, rfl⟩
  | x :: y :: rest =>
    have h : Config.freeChoice d % (rest.length + 2) < (x :: y :: rest).length :=
      Nat.mod_lt _ (by omega)
    exact .inr ⟨_, List.getElem_mem h, by simp only [choose]; exact List.getElem?_eq_getElem h⟩

theorem choose_eq_none_iff {α : Type} (d : Nat) (l : List α) : choose d l = none ↔ l = [] := by
  rcases choose_cases d l with ⟨h, hc⟩ | ⟨x, hx, hc⟩
  · simp [h, choose]
  · simp only [hc, reduceCtorEq, false_iff]
    rintro rfl
    simp at hx

theorem choose_mem {α : Type} {d : Nat} {l : List α} {x : α} (h : choose d l = some x) : x ∈ l := by
  rcases choose_cases d l with ⟨-, hc⟩ | ⟨y, hy, hc⟩
  · simp [hc] at h
  · rw [hc, Option.some.injEq] at h
    exact h ▸ hy

/-- An offer is listed exactly where its link exists and holds it. -/
theorem mem_offersWhere {α : Type} {s : State} {pick : Nat → Option α} {b : Nat} {m : α} :
    (b, m) ∈ offersWhere s pick ↔ b < s.nbus ∧ pick b = some m := by
  simp only [offersWhere, List.mem_filterMap, List.mem_range, Option.map_eq_some_iff, Prod.mk.injEq]
  constructor
  · rintro ⟨c, hc, m', hm, rfl, rfl⟩
    exact ⟨hc, hm⟩
  · rintro ⟨hb, hm⟩
    exact ⟨b, hb, m, hm, rfl, rfl⟩

theorem mem_inceptOffers {s : State} {b : Nat} {m : Com InceptPayload} :
    (b, m) ∈ inceptOffers s ↔ b < s.nbus ∧ (linkAt s b).incept = some m := mem_offersWhere

theorem mem_killOffers {s : State} {b : Nat} {m : Com Unit} :
    (b, m) ∈ killOffers s ↔ b < s.nbus ∧ (linkAt s b).kill = some m := mem_offersWhere

/-- An acceptable `send` is one on an enabled bus (R162). -/
theorem mem_acceptableSends {s : State} {b : Nat} {m : Com Int} :
    (b, m) ∈ acceptableSends s ↔
      b < s.nbus ∧ busEnabled s b = true ∧ (linkAt s b).send = some m := by
  rw [acceptableSends, mem_offersWhere]
  by_cases h : busEnabled s b = true <;> simp [h]

/-- Changing link `c` leaves the offers of every other link, and changes those of an existing one. -/
theorem linkAt_updateLink (s : State) (c b : Nat) (f : Link → Link) :
    linkAt (updateLink c f s) b =
      if b = c ∧ b < s.links.length then f (linkAt s b) else linkAt s b := by
  simp only [linkAt, updateLink_links, List.getElem?_modify]
  by_cases hb : b < s.links.length
  · by_cases h : c = b
    · simp [h, hb]
    · have : ¬ b = c := fun e => h e.symm
      simp [h, this, hb]
  · simp [hb]

/-- The offers of a link depend on the links alone. -/
theorem linkAt_congr {s t : State} (h : t.links = s.links) (b : Nat) : linkAt t b = linkAt s b := by
  simp [linkAt, h]

theorem linkAt_acceptIncept (s : State) (c b : Nat) :
    linkAt (acceptIncept c s) b =
      if b = c ∧ b < s.links.length then { linkAt s b with incept := none } else linkAt s b :=
  linkAt_updateLink s c b _

theorem linkAt_acceptKill (s : State) (c b : Nat) :
    linkAt (acceptKill c s) b =
      if b = c ∧ b < s.links.length then { linkAt s b with kill := none } else linkAt s b :=
  linkAt_updateLink s c b _

theorem linkAt_acceptSend (s : State) (c b : Nat) :
    linkAt (acceptSend c s) b =
      if b = c ∧ b < s.links.length then { linkAt s b with send := none } else linkAt s b :=
  linkAt_updateLink s c b _

/-! ## Updates in sequence, as one record -/

/-- What an accepted `send` leaves: the delivery, the emptied slot, the counter, the advanced pc. -/
theorem advance_deliver_acceptSend (v w : Int) (b : Nat) (s : State) :
    advance (deliver v w (acceptSend b s)) =
      { s with
        conveyor := v :: w :: s.conveyor.dropLast.dropLast
        links := s.links.modify b fun l => { l with send := none }
        draws := s.draws + 1
        pc := wadd s.cfg.xlen s.pc 1 } := by
  simp only [advance, deliver, insertFront, removeRear, acceptSend, countDraw, updateLink]

/-- What an accepted kill offer leaves in a state whose turn is spent. -/
theorem acceptKill_spendTurn (b : Nat) (s : State) :
    acceptKill b (spendTurn s) =
      { s with
        links := s.links.modify b fun l => { l with kill := none }
        draws := s.draws + 1
        schedule := s.schedule.tail } := by
  simp only [acceptKill, countDraw, updateLink, spendTurn]

/-- What an accepted incept offer leaves in a state whose turn is spent. -/
theorem acceptIncept_spendTurn (b : Nat) (s : State) :
    acceptIncept b (spendTurn s) =
      { s with
        links := s.links.modify b fun l => { l with incept := none }
        draws := s.draws + 1
        schedule := s.schedule.tail } := by
  simp only [acceptIncept, countDraw, updateLink, spendTurn]

/-- The discarded context of KILL_DISCARD_MODE reset (R206). -/
theorem discardedContext_of_reset {s : State} (h : s.cfg.killDiscard = .reset) :
    discardedContext s = clearedContext := by
  simp [discardedContext, h]

/-- Spending a turn changes neither offers nor masks. -/
@[simp] theorem linkAt_spendTurn (s : State) (b : Nat) : linkAt (spendTurn s) b = linkAt s b := rfl
@[simp] theorem busEnabled_spendTurn (s : State) (b : Nat) :
    busEnabled (spendTurn s) b = busEnabled s b := rfl
@[simp] theorem nbus_spendTurn (s : State) : (spendTurn s).nbus = s.nbus := rfl
@[simp] theorem killOffers_spendTurn (s : State) : killOffers (spendTurn s) = killOffers s := rfl
@[simp] theorem inceptOffers_spendTurn (s : State) : inceptOffers (spendTurn s) = inceptOffers s := rfl
@[simp] theorem acceptableSends_spendTurn (s : State) :
    acceptableSends (spendTurn s) = acceptableSends s := rfl
@[simp] theorem fetch_spendTurn (s : State) : fetch (spendTurn s) = fetch s := rfl

/-! ## The phases of a step -/

/-- What the kill poll can find (R205). -/
theorem killPoll_cases (s : State) :
    (killOffers s = [] ∧ killPoll s = .proceed s) ∨
    (∃ b m, (b, m) ∈ killOffers s ∧ authKill s.cfg m.permission s.permission = true ∧
      killPoll s = .honoured (honourKill (acceptKill b s))) ∨
    ∃ b m, (b, m) ∈ killOffers s ∧ authKill s.cfg m.permission s.permission = false ∧
      killPoll s = .proceed (acceptKill b s) := by
  unfold killPoll
  rcases choose_cases s.draws (killOffers s) with ⟨h, hc⟩ | ⟨⟨b, m⟩, hm, hc⟩
  · exact .inl ⟨h, by rw [hc]⟩
  · rw [hc]
    cases ha : authKill s.cfg m.permission s.permission with
    | true => exact .inr (.inl ⟨b, m, hm, ha, by simp [ha]⟩)
    | false => exact .inr (.inr ⟨b, m, hm, ha, by simp [ha]⟩)

/-- With no kill pending the poll changes nothing. -/
theorem killPoll_of_none {s : State} (h : ∀ b < s.nbus, (linkAt s b).kill = none) :
    killPoll s = .proceed s := by
  have hn : ∀ b m, (b, m) ∉ killOffers s := fun b m hm => by
    rw [mem_killOffers] at hm
    simp [h b hm.1] at hm
  rcases killPoll_cases s with ⟨-, hk⟩ | ⟨b, m, hm, -⟩ | ⟨b, m, hm, -⟩
  · exact hk
  · exact absurd hm (hn b m)
  · exact absurd hm (hn b m)

/-- What draining the byte source can do (R203, R204). -/
theorem load_cases (source : ByteSource) (s : State) :
    (source.errors = false ∧
      load source s = { s with program := source.bytes, pc := 0, running := true, phase := .running }) ∨
    (source.errors = true ∧ ∃ n, load source s =
      takeFault { kind := .streamReadFailure, value := .nothing }
        { s with program := source.bytes.take n }) := by
  unfold load
  cases h : source.errors with
  | false => exact .inl ⟨rfl, by simp⟩
  | true => exact .inr ⟨rfl, _, by simp; rfl⟩

/-- What the core can do in AwaitingInception (R202, R203). -/
theorem awaitTurn_cases (s : State) :
    (inceptOffers s = [] ∧ s.closed.incept = false ∧ awaitTurn s = s) ∨
    (inceptOffers s = [] ∧ s.closed.incept = true ∧
      awaitTurn s = takeFault { kind := .channelClosed, value := .channel .incept } s) ∨
    (∃ b m, (b, m) ∈ inceptOffers s ∧ authIncept s.cfg m.permission m.data.target = false ∧
      awaitTurn s = acceptIncept b s) ∨
    ∃ b m, (b, m) ∈ inceptOffers s ∧ authIncept s.cfg m.permission m.data.target = true ∧
      awaitTurn s = load m.data.source (beginLoading m.data.target (acceptIncept b s)) := by
  unfold awaitTurn
  rcases choose_cases s.draws (inceptOffers s) with ⟨h, hc⟩ | ⟨⟨b, m⟩, hm, hc⟩
  · cases hx : s.closed.incept with
    | false => exact .inl ⟨h, rfl, by rw [hc]; simp⟩
    | true => exact .inr (.inl ⟨h, rfl, by rw [hc]; simp⟩)
  · rw [hc]
    unfold receiveIncept
    cases ha : authIncept s.cfg m.permission m.data.target with
    | false => exact .inr (.inr (.inl ⟨b, m, hm, ha, by simp [ha]⟩))
    | true => exact .inr (.inr (.inr ⟨b, m, hm, ha, by simp [ha]⟩))

/-- What `recv` can do (R162, R163). -/
theorem execRecv_cases (s : State) :
    (∃ b m, (b, m) ∈ acceptableSends s ∧ execRecv s =
      .next (advance (deliver m.data (busIndexWord s.cfg.xlen b) (acceptSend b s)))) ∨
    (acceptableSends s = [] ∧ s.closed.send = true ∧
      execRecv s = .next (takeFault { kind := .channelClosed, value := .channel .send } s)) ∨
    (acceptableSends s = [] ∧ s.closed.send = false ∧ execRecv s = .next s) := by
  unfold execRecv
  rcases choose_cases s.draws (acceptableSends s) with ⟨h, hc⟩ | ⟨⟨b, m⟩, hm, hc⟩
  · cases hx : s.closed.send with
    | true => exact .inr (.inl ⟨h, rfl, by rw [hc]; simp⟩)
    | false => exact .inr (.inr ⟨h, rfl, by rw [hc]; simp⟩)
  · exact .inl ⟨b, m, hm, by rw [hc]; rfl⟩

/-- One core step by phase (R200). -/
theorem coreTurn_cases (s : State) :
    (s.phase = .awaitingInception ∧ coreTurn s = .next (awaitTurn s)) ∨
    (s.phase = .loading ∧ coreTurn s = .fault .midInception) ∨
    (s.phase = .running ∧ coreTurn s = cycle s) ∨
    ∃ c p, s.phase = .faulted c p ∧ coreTurn s = .next s := by
  unfold coreTurn
  cases h : s.phase <;> simp

/-- A step is the core's turn or a move of the environment (R264). -/
theorem step_cases (s : State) :
    (coreMovesNext s = true ∧ step s = coreTurn (spendTurn s)) ∨
    ∃ m rest, s.schedule = .environment m :: rest ∧ step s = environmentTurn m (spendTurn s) := by
  rcases h : s.schedule with _ | ⟨_ | m, rest⟩
  · refine .inl ⟨by simp [coreMovesNext, h], ?_⟩
    have : spendTurn s = s := by
      cases s
      cases h
      rfl
    rw [this]
    simp only [step, turn, h]
  · exact .inl ⟨by simp [coreMovesNext, h], by simp only [step, turn, h, spendTurn, List.tail_cons]⟩
  · exact .inr ⟨m, rest, rfl, by simp only [step, turn, h, spendTurn, List.tail_cons]⟩

theorem step_of_coreMovesNext {s : State} (h : coreMovesNext s = true) :
    step s = coreTurn (spendTurn s) := by
  rcases step_cases s with ⟨-, h2⟩ | ⟨m, rest, h1, -⟩
  · exact h2
  · simp [coreMovesNext, h1] at h

theorem step_of_environment {s : State} {m : EnvMove} {rest : List Turn}
    (h : s.schedule = .environment m :: rest) :
    step s = environmentTurn m (spendTurn s) := by
  simp [step, turn, h, spendTurn]

/-- A sender's offer is presented on an existing link's empty slot of an open channel, or the move is
outside the table (R174, R256). -/
theorem offer_eq_some_iff {b : Nat} {empty : Link → Bool} {closed : Bool} {put : Link → Link}
    {s t : State} :
    offer b empty closed put s = some t ↔
      b < s.nbus ∧ empty (linkAt s b) = true ∧ closed = false ∧ t = updateLink b put s := by
  unfold offer
  split <;> rename_i h
  · simp only [Bool.and_eq_true, decide_eq_true_eq, Bool.not_eq_true'] at h
    simp only [Option.some.injEq, h, true_and]
    exact eq_comm
  · simp only [Bool.and_eq_true, decide_eq_true_eq, Bool.not_eq_true'] at h
    simp only [reduceCtorEq, false_iff]
    tauto

/-- The turn that changes link `b` leaves `linkBecomes` of the changed link. -/
theorem linkBecomes_updateLink {s : State} {m : Turn} {rest : List Turn} {b : Nat} (f : Link → Link)
    (h : s.schedule = m :: rest) (hb : b < s.links.length) :
    linkBecomes s (updateLink b f (spendTurn s)) rest b (f (linkAt s b)) := by
  refine ⟨by simp [updateLink, spendTurn, h], ?_, fun c hc => ?_⟩
  · rw [linkAt_updateLink, if_pos ⟨rfl, by simpa using hb⟩, linkAt_spendTurn]
  · rw [linkAt_updateLink, if_neg (fun h => hc h.1), linkAt_spendTurn]

theorem allowed_eq_some_iff {g : Bool} {t u : State} : allowed g t = some u ↔ g = true ∧ u = t := by
  cases g <;> simp [allowed, eq_comm]

end Sys2Proof.Machine
end

