-- ==== Sys2Proof/Laws/PerInstr.lean ====
section
/-! SUPPORT. Sys2Proof/Laws/PerInstr.lean: the rows of spec/opcode_table.json as masks and patterns,
and the family `EncodesInRow`, one lemma for each constructor of `Instr`. -/

namespace Sys2Proof.Laws

/-- A row of the opcode table: the fixed bits and their value. -/
structure Row where
  mask : Byte
  pattern : Byte
deriving DecidableEq, Repr

/-- The row of spec/opcode_table.json a constructor stands for ("mask", "match"). -/
def rowOf : Instr → Row
  | .rread _ => { mask := 0xFC, pattern := 0x00 }
  | .add _ => { mask := 0xFC, pattern := 0x04 }
  | .inc => { mask := 0xFF, pattern := 0x08 }
  | .dec => { mask := 0xFF, pattern := 0x09 }
  | .carry => { mask := 0xFF, pattern := 0x0A }
  | .borrow => { mask := 0xFF, pattern := 0x0B }
  | .inv => { mask := 0xFF, pattern := 0x0C }
  | .flush => { mask := 0xFF, pattern := 0x0D }
  | .reads => { mask := 0xFF, pattern := 0x0E }
  | .ret => { mask := 0xFF, pattern := 0x0F }
  | .ien => { mask := 0xFF, pattern := 0x10 }
  | .idi => { mask := 0xFF, pattern := 0x11 }
  | .recv => { mask := 0xFF, pattern := 0x12 }
  | .undefined13 => { mask := 0xFF, pattern := 0x13 }
  | .undefined14to17 _ => { mask := 0xFC, pattern := 0x14 }
  | .undefined18to1F _ => { mask := 0xF8, pattern := 0x18 }
  | .undefined20to3F _ => { mask := 0xE0, pattern := 0x20 }
  | .undefined40to7F _ => { mask := 0xC0, pattern := 0x40 }
  | .undefined80toFF _ => { mask := 0x80, pattern := 0x80 }

/-- Every row of the table, in its order. -/
def rows : List Row :=
  [.rread 0, .add 0, .inc, .dec, .carry, .borrow, .inv, .flush, .reads, .ret, .ien, .idi, .recv,
    .undefined13, .undefined14to17 0, .undefined18to1F 0, .undefined20to3F 0, .undefined40to7F 0,
    .undefined80toFF 0].map rowOf

/-- Two rows that fix some common bit to different values hold no common byte. -/
def Row.apart (r q : Row) : Bool := (r.mask &&& q.mask) &&& (r.pattern ^^^ q.pattern) != 0

/-- No two rows of the table overlap (R85). -/
theorem rows_apart : rows.Pairwise fun r q => r.apart q = true := by decide

/-- A well-formed instruction is encoded in its row of the opcode table. -/
def EncodesInRow.Statement (i : Instr) : Prop :=
  i.wellFormed = true → encodeByte i &&& (rowOf i).mask = (rowOf i).pattern

theorem EncodesInRow.rread (k : Fin 4) : EncodesInRow.Statement (.rread k) := by
  intro _
  revert k
  decide

theorem EncodesInRow.add (k : Fin 4) : EncodesInRow.Statement (.add k) := by
  intro _
  revert k
  decide

theorem EncodesInRow.inc : EncodesInRow.Statement .inc := fun _ => rfl
theorem EncodesInRow.dec : EncodesInRow.Statement .dec := fun _ => rfl
theorem EncodesInRow.carry : EncodesInRow.Statement .carry := fun _ => rfl
theorem EncodesInRow.borrow : EncodesInRow.Statement .borrow := fun _ => rfl
theorem EncodesInRow.inv : EncodesInRow.Statement .inv := fun _ => rfl
theorem EncodesInRow.flush : EncodesInRow.Statement .flush := fun _ => rfl
theorem EncodesInRow.reads : EncodesInRow.Statement .reads := fun _ => rfl
theorem EncodesInRow.ret : EncodesInRow.Statement .ret := fun _ => rfl
theorem EncodesInRow.ien : EncodesInRow.Statement .ien := fun _ => rfl
theorem EncodesInRow.idi : EncodesInRow.Statement .idi := fun _ => rfl
theorem EncodesInRow.recv : EncodesInRow.Statement .recv := fun _ => rfl
theorem EncodesInRow.undefined13 : EncodesInRow.Statement .undefined13 := fun _ => rfl

theorem EncodesInRow.undefined14to17 (byte : Byte) :
    EncodesInRow.Statement (.undefined14to17 byte) := fun h => beq_iff_eq.1 h

theorem EncodesInRow.undefined18to1F (byte : Byte) :
    EncodesInRow.Statement (.undefined18to1F byte) := fun h => beq_iff_eq.1 h

theorem EncodesInRow.undefined20to3F (byte : Byte) :
    EncodesInRow.Statement (.undefined20to3F byte) := fun h => beq_iff_eq.1 h

theorem EncodesInRow.undefined40to7F (byte : Byte) :
    EncodesInRow.Statement (.undefined40to7F byte) := fun h => beq_iff_eq.1 h

theorem EncodesInRow.undefined80toFF (byte : Byte) :
    EncodesInRow.Statement (.undefined80toFF byte) := fun h => beq_iff_eq.1 h

end Sys2Proof.Laws
end

