-- ==== Sys2Proof/Tests/Slice0.lean ====
section
/-! SUPPORT. Sys2Proof/Tests/Slice0.lean: our own tests. Words are written out in binary from the
format lines of 30_encoding.md rules R81 and R85; expected results are the rows of 95_test_vectors.md
(named as TV 2.x in the comments), which the spec derives by hand from its rules. A `witness_<Name>`
theorem shows a concrete state and operands that meet the hypotheses of `Obligations.<Name>`. -/

namespace Sys2Proof.Machine.Tests

/-! ## Helpers -/

/-- The data counters of four integers. -/
def counters (a b c d : Int) : DataCounters := { dc0 := a, dc1 := b, dc2 := c, dc3 := d }

/-- A Running core of TV 2.6: XLEN = 8, MEM_SIZE = 4, data [10, 20, 30, 40], NBUS = 2. -/
def core0 (dstack : List Int) (dcs : DataCounters) : State :=
  { State.reset with
    running := true
    phase := .running
    data := [(0, 10), (1, 20), (2, 30), (3, 40)]
    dstack := dstack
    dcs := dcs }

/-- The same with a program. -/
def coreWith (program : List Byte) : State := { core0 [2] (counters 0 1 2 3) with program := program }

/-- Two bus slots with the given `selected` and `enabled` flags. -/
def slots (s0 s1 e0 e1 : Bool) : List BusSlot :=
  [{ sender := 0, selected := s0, enabled := e0 }, { sender := 1, selected := s1, enabled := e1 }]

/-- The permission {privilege, address}. -/
def perm (p : BitVec 8) (a : BitVec 32) : Permission := { privilege := p, address := a }

/-- A pending `send` of a value on link `b`. -/
def sendOn (b : Nat) (v : Int) : Link :=
  { Link.idle with send := some { permission := perm 0 0, bus := b, data := v } }

/-- A pending kill on link `b`. -/
def killOn (b : Nat) (p : Permission) : Link :=
  { Link.idle with kill := some { permission := p, bus := b, data := () } }

/-- A pending incept on link `b`. -/
def inceptOn (b : Nat) (stamp target : Permission) (bytes : List Byte) (errors : Bool) : Link :=
  { Link.idle with
    incept := some { permission := stamp, bus := b,
                     data := { target := target, source := { bytes := bytes, errors := errors } } } }

/-- The next state of an outcome, if it is one. -/
def nextOf (o : Host.Outcome State Fault Refusal) : Option State :=
  match o with
  | .next t => some t
  | .fault _ => none
  | .refused _ => none

/-- Data stack, overflow and carry after an outcome. -/
def alu (o : Host.Outcome State Fault Refusal) : Option (List Int × Bool × Bool) :=
  (nextOf o).map fun t => (t.dstack, t.overflow, t.carry)

/-- Data stack and owner's reports after an outcome. -/
def fault (o : Host.Outcome State Fault Refusal) : Option (List Int × List Report) :=
  (nextOf o).map fun t => (t.dstack, t.reports)

/-! ## WellFormed: an ill-formed term for each check -/

theorem test_wellFormed_refuses_14to17 : (Instr.undefined14to17 0x18).wellFormed = false := by decide
theorem test_wellFormed_refuses_18to1F : (Instr.undefined18to1F 0x17).wellFormed = false := by decide
theorem test_wellFormed_refuses_20to3F : (Instr.undefined20to3F 0x40).wellFormed = false := by decide
theorem test_wellFormed_refuses_40to7F : (Instr.undefined40to7F 0x3F).wellFormed = false := by decide
theorem test_wellFormed_refuses_80toFF : (Instr.undefined80toFF 0x7F).wellFormed = false := by decide

/-! ## Decode: a word written out for every constructor (R81, R85; TV 2.1) -/

theorem test_decode_rread : decode [0b00000011] = .ok (.rread 3, []) := by decide
theorem test_decode_add : decode [0b00000110] = .ok (.add 2, []) := by decide
theorem test_decode_inc : decode [0b00001000] = .ok (.inc, []) := by decide
theorem test_decode_dec : decode [0b00001001] = .ok (.dec, []) := by decide
theorem test_decode_carry : decode [0b00001010] = .ok (.carry, []) := by decide
theorem test_decode_borrow : decode [0b00001011] = .ok (.borrow, []) := by decide
theorem test_decode_inv : decode [0b00001100] = .ok (.inv, []) := by decide
theorem test_decode_flush : decode [0b00001101] = .ok (.flush, []) := by decide
theorem test_decode_reads : decode [0b00001110] = .ok (.reads, []) := by decide
theorem test_decode_ret : decode [0b00001111] = .ok (.ret, []) := by decide
theorem test_decode_ien : decode [0b00010000] = .ok (.ien, []) := by decide
theorem test_decode_idi : decode [0b00010001] = .ok (.idi, []) := by decide
theorem test_decode_recv : decode [0b00010010] = .ok (.recv, []) := by decide
theorem test_decode_13 : decode [0b00010011] = .ok (.undefined13, []) := by decide
theorem test_decode_14 : decode [0b00010100] = .ok (.undefined14to17 0x14, []) := by decide
theorem test_decode_18 : decode [0b00011000] = .ok (.undefined18to1F 0x18, []) := by decide
theorem test_decode_20 : decode [0b00100000] = .ok (.undefined20to3F 0x20, []) := by decide
theorem test_decode_7F : decode [0b01111111] = .ok (.undefined40to7F 0x7F, []) := by decide
theorem test_decode_80 : decode [0b10000000] = .ok (.undefined80toFF 0x80, []) := by decide
theorem test_decode_FF : decode [0b11111111] = .ok (.undefined80toFF 0xFF, []) := by decide
theorem test_decode_nothing : decode [] = .error .noByte := by decide

/-- TV section 3, program P1: the assembly and its byte sequence `0E 08 0E 04 0C 01 09 11 12`. -/
theorem test_encode_P1 :
    encodeProgram [.reads, .inc, .reads, .add 0, .inv, .rread 1, .dec, .idi, .recv] =
      [0x0E, 0x08, 0x0E, 0x04, 0x0C, 0x01, 0x09, 0x11, 0x12] := by decide

theorem test_tableWord_recv : decodeTableWord 8 0x12 = some .recv := by decide
/-- A word placed in the reset state is what the very next step runs: `ien` at pc 0 (R209, R210). -/
theorem test_withFetchWord_runs :
    (nextOf (step (State.reset.withFetchWord 8 0x10))).map (fun t => (t.pc, t.phase)) =
      some (1, .running) := by decide

/-! ## Instructions: one step each, the rows of 95_test_vectors.md -/

-- TV 2.6
theorem test_rread_wraps : alu (exec (.rread 3) (core0 [-128] (counters 0 0 0 (-127)))) =
    some ([20], false, false) := by decide
theorem test_rread_traps : fault (exec (.rread 2) (core0 [5] (counters 0 0 127 0))) =
    some ([5], [{ code := 6, pc := 0, value := .address (-124) }]) := by decide
theorem test_reads_deeper_same : alu (exec .reads (core0 [9, 2] (counters 0 0 0 0))) =
    some ([9, 30], false, false) := by decide
theorem test_reads_traps : fault (exec .reads (core0 [4] (counters 0 0 0 0))) =
    some ([4], [{ code := 6, pc := 0, value := .address 4 }]) := by decide
-- TV 2.3: select, and the row -128 + -1
theorem test_add_select : alu (exec (.add 2) (core0 [1] (counters 0 1 2 3))) =
    some ([31], false, false) := by decide
theorem test_add_negative_overflow :
    alu (exec (.add 1) { core0 [-1] (counters 0 1 2 3) with data := [(1, -128)] }) =
      some ([127], true, true) := by decide
-- TV 2.2
theorem test_inc_max : alu (exec .inc (core0 [127] (counters 0 0 0 0))) =
    some ([-128], true, false) := by decide
theorem test_inc_minus_one : alu (exec .inc (core0 [-1] (counters 0 0 0 0))) =
    some ([0], false, true) := by decide
theorem test_dec_min : alu (exec .dec (core0 [-128] (counters 0 0 0 0))) =
    some ([127], true, true) := by decide
theorem test_dec_zero : alu (exec .dec (core0 [0] (counters 0 0 0 0))) =
    some ([-1], false, false) := by decide
-- TV 2.4
theorem test_carry_clear : alu (exec .carry { core0 [5] (counters 0 0 0 0) with overflow := true }) =
    some ([5], false, false) := by decide
theorem test_carry_set : alu (exec .carry { core0 [127] (counters 0 0 0 0) with carry := true }) =
    some ([-128], true, false) := by decide
theorem test_borrow_set :
    alu (exec .borrow { core0 [] (counters 0 0 0 0) with carry := true, overflow := true }) =
      some ([], false, true) := by decide
theorem test_borrow_clear : alu (exec .borrow (core0 [0] (counters 0 0 0 0))) =
    some ([-1], false, false) := by decide
-- TV 2.5
theorem test_inv : alu (exec .inv { core0 [85] (counters 0 0 0 0) with carry := true }) =
    some ([-86], false, true) := by decide
-- TV 2.7: the pc wraps past 127
theorem test_flush_wraps :
    (nextOf (exec .flush { core0 [] (counters 0 0 0 0) with pc := 127 })).map (·.pc) =
      some (-128) := by decide
theorem test_undefined13 :
    (nextOf (exec .undefined13 { core0 [7] (counters 0 0 0 0) with carry := true })) =
      some { core0 [7] (counters 0 0 0 0) with carry := true, pc := 1 } := by decide
theorem test_undefined14to17 : (nextOf (exec (.undefined14to17 0x14) (coreWith []))).map (·.pc) =
    some 1 := by decide
theorem test_undefined18to1F : (nextOf (exec (.undefined18to1F 0x1F) (coreWith []))).map (·.pc) =
    some 1 := by decide
theorem test_undefined20to3F : (nextOf (exec (.undefined20to3F 0x20) (coreWith []))).map (·.pc) =
    some 1 := by decide
theorem test_undefined40to7F : (nextOf (exec (.undefined40to7F 0x40) (coreWith []))).map (·.pc) =
    some 1 := by decide
theorem test_undefined80toFF : (nextOf (exec (.undefined80toFF 0xFF) (coreWith []))).map (·.pc) =
    some 1 := by decide
-- TV 2.8: the first row, and an `interrupt` that stays set with the lower frame left in place
theorem test_ret_first_row :
    (nextOf (exec .ret { core0 [] (counters 0 0 0 0) with
      cstack := [{ pc := 2, dcs := counters 7 0 0 9, interrupt := false }] })).map
        (fun t => (t.cstack, t.pc, t.dcs, t.interrupt)) =
      some ([], 2, counters 7 0 0 9, false) := by decide
theorem test_ret_keeps_interrupt :
    (nextOf (exec .ret { core0 [] (counters 0 0 0 0) with
      interrupt := true
      cstack := [{ pc := 1, dcs := counters 0 0 0 0, interrupt := false },
                 { pc := 5, dcs := counters 1 2 3 4, interrupt := false }] })).map
        (fun t => (t.cstack.length, t.pc, t.interrupt)) =
      some (1, 5, true) := by decide
-- TV 2.10
theorem test_ien : (nextOf (exec .ien { coreWith [] with buses := slots true false false true })).map
    (·.buses) = some (slots true false true true) := by decide
theorem test_idi : (nextOf (exec .idi { coreWith [] with buses := slots true false true true })).map
    (·.buses) = some (slots true false false false) := by decide
-- TV 2.11: accepted from bus 1 only, the offer of disabled bus 0 stays; waiting
theorem test_recv_accepts :
    (nextOf (exec .recv { coreWith [] with
      buses := slots false false false true, links := [sendOn 0 99, sendOn 1 7] })).map
        (fun t => (t.conveyor, t.pc, t.links)) =
      some (7 :: 1 :: List.replicate 14 0, 1, [sendOn 0 99, Link.idle]) := by decide
theorem test_recv_waits :
    nextOf (exec .recv { coreWith [] with links := [sendOn 0 5, Link.idle] }) =
      some { coreWith [] with links := [sendOn 0 5, Link.idle] } := by decide

/-! ## Engines without an opcode (TV 2.9, 2.11) -/

/-- The data stack an engine operation leaves, or its error. -/
def stackOf (r : Except Raise State) : Except Raise (List Int) := r.map (·.dstack)

theorem test_push : (push 9 (core0 [1, 2] (counters 0 0 0 0))).dstack = [1, 2, 9] := by decide
theorem test_rotate_2_of_4 : stackOf (rotate 2 (core0 [1, 2, 3, 4] (counters 0 0 0 0))) =
    .ok [1, 3, 4, 2] := by decide
theorem test_rotate_bottom : stackOf (rotate 2 (core0 [1, 2, 3] (counters 0 0 0 0))) =
    .error { kind := .indexOutOfRange, value := .position 2 } := by decide
theorem test_copy_1_of_3 : stackOf (copy 1 (core0 [1, 2, 3] (counters 0 0 0 0))) =
    .ok [1, 2, 3, 2] := by decide
theorem test_copy_bottom : stackOf (copy 0 (core0 [5] (counters 0 0 0 0))) =
    .error { kind := .indexOutOfRange, value := .position 0 } := by decide
theorem test_nine_deliveries :
    ([(11, 0), (22, 1), (33, 0), (44, 1), (55, 0), (66, 1), (77, 0), (88, 1), (99, 0)].foldl
      (fun (u : State) (d : Int × Int) => deliver d.1 d.2 u) State.reset).conveyor =
      [99, 0, 88, 1, 77, 0, 66, 1, 55, 0, 44, 1, 33, 0, 22, 1] := by decide

/-! ## Fetch, inception, kill (TV 2.12, 2.13) -/

theorem test_fetch_empty_program : fetch (coreWith []) =
    .error { kind := .fetchOutOfRange, value := .address 0 } := by decide
theorem test_incept_accepted :
    (nextOf (step { State.reset with links := [inceptOn 0 (perm 1 0) (perm 1 5) [0x0D] false, Link.idle] })).map
        (fun t => (t.permission, t.program, t.running, t.phase)) =
      some (perm 1 5, [0x0D], true, .running) := by decide
theorem test_incept_unauthorised :
    (nextOf (step { State.reset with
      permission := perm 3 3
      links := [inceptOn 0 (perm 1 0) (perm 2 0) [0x0E] false, Link.idle] })).map
        (fun t => (t.permission, t.phase, t.links)) =
      some (perm 3 3, .awaitingInception, [Link.idle, Link.idle]) := by decide

/-- The core of TV 2.13's honoured kill: pc 6, dcs [1,2,3,4], both flags and `interrupt` set. -/
def busyCore (stamp : Permission) : State :=
  { core0 [9, 8] (counters 1 2 3 4) with
    pc := 6
    carry := true
    overflow := true
    interrupt := true
    cstack := [{ pc := 1, dcs := counters 0 0 0 0, interrupt := false }]
    program := List.replicate 8 0x0D
    conveyor := 7 :: List.replicate 15 0
    permission := perm 1 5
    buses := slots true true true false
    links := [killOn 0 stamp, Link.idle] }

theorem test_kill_honoured :
    nextOf (step (busyCore (perm 1 0))) =
      some { core0 [] (counters 0 0 0 0) with
        running := false
        phase := .awaitingInception
        conveyor := 7 :: List.replicate 15 0
        permission := perm 1 5
        buses := slots true true true false
        draws := 1 } := by decide
theorem test_kill_unauthorised :
    (nextOf (step (busyCore (perm 0 9)))).map (fun t => (t.pc, t.phase, t.links)) =
      some (7, .running, [Link.idle, Link.idle]) := by decide

/-! ## Witnesses: the hypotheses of every statement that has some are met -/

theorem witness_DecodeAndEncodeAgree :
    Instr.inc.wellFormed = true ∧ (Instr.undefined14to17 0x14).wellFormed = true ∧
    (Instr.undefined14to17 0x17).wellFormed = true ∧ (Instr.undefined80toFF 0xFF).wellFormed = true := by
  decide

theorem witness_WordOperationsAreTwosComplement :
    XLen.x8.holds (-128) ∧ XLen.x8.holds 127 ∧ (7 : Nat) < XLen.x8.bits ∧ XLen.x64.holds 9223372036854775807 := by
  decide

theorem witness_IncDecFlagsMatchReferenceArithmetic :
    XLen.x8.holds 127 ∧ XLen.x8.holds (-128) ∧ XLen.x16.holds (-1) ∧ XLen.x32.holds 0 := by decide

theorem witness_AddFlagsAreSignedOverflow :
    (XLen.x8.holds (-128) ∧ XLen.x8.holds (-1)) ∧ (XLen.x8.holds 127 ∧ XLen.x8.holds 127) := by decide

/-- The effective address at both ends of the memory, 0 and MEM_SIZE - 1. -/
theorem witness_RreadReadsBasePlusOffset :
    (let s := core0 [9, -128] (counters 0 0 0 (-128))
     s.dstack = [9] ++ [-128] ∧ 0 ≤ wadd s.cfg.xlen (s.dcs.get 3) (-128) ∧
       wadd s.cfg.xlen (s.dcs.get 3) (-128) < s.cfg.memSize) ∧
    (let s := core0 [2] (counters 0 1 0 0)
     s.dstack = [] ++ [2] ∧ 0 ≤ wadd s.cfg.xlen (s.dcs.get 1) 2 ∧
       wadd s.cfg.xlen (s.dcs.get 1) 2 < s.cfg.memSize) := by decide

theorem witness_ReadsReadsTheTopAsAddress :
    (let s := core0 [9, 0] (counters 0 0 0 0)
     s.dstack = [9] ++ [0] ∧ (0 : Int) ≤ 0 ∧ (0 : Int) < s.cfg.memSize) ∧
    (let s := core0 [3] (counters 0 0 0 0)
     s.dstack = [] ++ [3] ∧ (0 : Int) ≤ 3 ∧ (3 : Int) < s.cfg.memSize) := by decide

/-- The empty stack; and for each reader an address just outside either end. -/
theorem witness_MemoryReadersTrapStackFirst :
    (core0 [] (counters 9 9 9 9)).dstack = [] ∧
    (let s := core0 [4] (counters 0 0 0 0)
     s.dstack = [] ++ [4] ∧ s.cfg.memSize ≤ wadd s.cfg.xlen (s.dcs.get 0) 4 ∧ (s.cfg.memSize : Int) ≤ 4) ∧
    (let s := core0 [-1] (counters 0 0 0 0)
     s.dstack = [] ++ [-1] ∧ wadd s.cfg.xlen (s.dcs.get 0) (-1) < 0 ∧ (-1 : Int) < 0) ∧
    (let s := core0 [1] (counters 4 (-1) 0 0)
     s.dstack = [] ++ [1] ∧ s.cfg.memSize ≤ s.dcs.get 0 ∧ s.dcs.get 1 < 0) := by decide

theorem witness_AddAddsMemoryToTheTop :
    (core0 [] (counters 0 0 0 0)).dstack = [] ∧
    (let s := core0 [1] (counters 4 (-1) 0 3)
     s.dstack = [] ++ [1] ∧ s.cfg.memSize ≤ s.dcs.get 0 ∧ s.dcs.get 1 < 0 ∧
     (0 ≤ s.dcs.get 2 ∧ s.dcs.get 2 < s.cfg.memSize ∧ 10 = s.data.read (s.dcs.get 2).toNat ∧
       11 = wadd s.cfg.xlen 10 1) ∧
     (0 ≤ s.dcs.get 3 ∧ s.dcs.get 3 < s.cfg.memSize ∧ 40 = s.data.read (s.dcs.get 3).toNat ∧
       41 = wadd s.cfg.xlen 40 1)) := by decide

theorem witness_IncAddsOneToTheTop :
    (core0 [] (counters 0 0 0 0)).dstack = [] ∧
    (let s := core0 [9, 127] (counters 0 0 0 0)
     s.dstack = [9] ++ [127] ∧ -128 = wadd s.cfg.xlen 127 1) := by decide

theorem witness_DecSubtractsOneFromTheTop :
    (core0 [] (counters 0 0 0 0)).dstack = [] ∧
    (let s := core0 [9, -128] (counters 0 0 0 0)
     s.dstack = [9] ++ [-128] ∧ 127 = wsub s.cfg.xlen (-128) 1) := by decide

theorem witness_CarryPropagatesOrClears :
    (let s := { core0 [] (counters 0 0 0 0) with carry := true }
     s.carry = true ∧ s.dstack = []) ∧
    (let s := { core0 [-1] (counters 0 0 0 0) with carry := true }
     s.carry = true ∧ s.dstack = [] ++ [-1] ∧ 0 = wadd s.cfg.xlen (-1) 1) ∧
    (core0 [5] (counters 0 0 0 0)).carry = false := by decide

theorem witness_BorrowPropagatesOrKeeps :
    ({ core0 [5] (counters 0 0 0 0) with carry := true } : State).carry = true ∧
    (let s := core0 [] (counters 0 0 0 0)
     s.carry = false ∧ s.dstack = []) ∧
    (let s := core0 [0] (counters 0 0 0 0)
     s.carry = false ∧ s.dstack = [] ++ [0] ∧ -1 = wsub s.cfg.xlen 0 1) := by decide

theorem witness_InvComplementsTheTop :
    (core0 [] (counters 0 0 0 0)).dstack = [] ∧
    (core0 [9, -128] (counters 0 0 0 0)).dstack = [9] ++ [-128] := by decide

theorem witness_UndefinedBytesAreNoOperation :
    0x13 ≤ (0x13 : Byte).toNat ∧ 0x13 ≤ (0xFF : Byte).toNat := by decide

/-- A core with two frames whose top frame's pc is at either end of the Words. -/
def returning (pc : Int) : State :=
  { coreWith [] with
    cstack := [{ pc := 1, dcs := counters 0 0 0 0, interrupt := false },
               { pc := pc, dcs := counters 1 2 3 4, interrupt := true }] }

theorem witness_RetRestoresTheTopFrame :
    (coreWith []).cstack = [] ∧
    (let fr : Frame := { pc := -128, dcs := counters 1 2 3 4, interrupt := true }
     (returning (-128)).cstack = [{ pc := 1, dcs := counters 0 0 0 0, interrupt := false }] ++ [fr] ∧
       (returning (-128)).cfg.xlen.holds fr.pc) ∧
    (returning 127).cfg.xlen.holds 127 := by decide

theorem witness_IenEnablesSelectedBuses :
    ({ coreWith [] with buses := slots true false false true } : State).buses[0]? =
        some { sender := 0, selected := true, enabled := false } ∧
    ({ coreWith [] with buses := slots true false false true } : State).buses[1]? =
        some { sender := 1, selected := false, enabled := true } := by decide

theorem witness_IdiDisablesEveryBus :
    ({ coreWith [] with buses := slots true false true true } : State).buses[1]? =
        some { sender := 1, selected := false, enabled := true } := by decide

/-- A core at `recv` with both links offering and only bus 1, the last, enabled. -/
def receiving : State :=
  { coreWith [0x12] with buses := slots false false false true, links := [sendOn 0 99, sendOn 1 7] }

theorem witness_RecvDeliversOneEnabledOffer :
    1 < receiving.nbus ∧ busEnabled receiving 1 = true ∧
    (linkAt receiving 1).send = some { permission := perm 0 0, bus := 1, data := 7 } ∧
    busBound receiving := by decide

theorem witness_RecvWaitsOrFindsTheChannelClosed :
    (let s := { receiving with buses := slots true true false false }
     (∀ b < s.nbus, busEnabled s b = true → (linkAt s b).send = none) ∧ s.closed.send = false) ∧
    (let s := { coreWith [0x12] with closed := { stream := false, incept := false, send := true, kill := false } }
     (∀ b < s.nbus, busEnabled s b = true → (linkAt s b).send = none) ∧ s.closed.send = true) := by decide

theorem witness_RecvKeepsOffersOfDisabledBuses :
    (nextOf (exec .recv receiving)).isSome = true ∧ busEnabled receiving 0 = false ∧
    (linkAt receiving 0).send ≠ none := by decide

/-- One next state of `exec` each for the frames: a completing register form, a `ret`, a `recv`, an
`ien` and an error. -/
theorem witness_InstructionsNeverChangeMemoryOrAuthority :
    ∀ i ∈ [Instr.inc, .ret, .recv, .ien, .reads], (nextOf (exec i receiving)).isSome = true := by decide

theorem witness_RegistersChangeOnlyWhereTheTableSays :
    (nextOf (exec .reads receiving)).isSome = true ∧ Instr.reads ≠ .ret ∧ writesFlags .reads = false ∧
    usesStackTop .ien = false ∧ Instr.reads ≠ .recv ∧ Instr.reads ≠ .ien ∧ Instr.reads ≠ .idi := by decide

/-- Both cases occur: `reads` of address 2 completes, `ret` with no frame is the fault entry. -/
theorem witness_FaultsArePreciseAndListed :
    (nextOf (exec .reads receiving)).map (·.phase) = some .running ∧
    (nextOf (exec .ret receiving)).map (·.phase) = some (.faulted .callStackUnderflow 0) := by decide

theorem witness_PermissionNeverInfluencesAnInstruction :
    nextOf (exec .recv { receiving with permission := perm 255 1 }) =
      (nextOf (exec .recv receiving)).map fun t => { t with permission := perm 255 1 } := by decide

theorem witness_StepRunsTheDecodedInstruction :
    (let s := { coreWith [0x0E, 0xFF] with pc := 1 }
     coreMovesNext s = true ∧ s.phase = .running ∧ (∀ b < s.nbus, (linkAt s b).kill = none) ∧
       0 ≤ s.pc ∧ s.program[s.pc.toNat]? = some 0xFF) := by decide

theorem witness_FetchOutsideTheProgramFaults :
    (let s := { coreWith [0x0E] with pc := -1 }
     coreMovesNext s = true ∧ s.phase = .running ∧ (∀ b < s.nbus, (linkAt s b).kill = none) ∧ s.pc < 0) ∧
    (let s := { coreWith [0x0E] with pc := 1 }
     coreMovesNext s = true ∧ s.phase = .running ∧ (∀ b < s.nbus, (linkAt s b).kill = none) ∧
       s.program.length ≤ s.pc) := by decide

theorem witness_FaultedCoreDoesNothing :
    (let s := { busyCore (perm 1 0) with running := false, phase := .faulted .stackUnderflow 6 }
     coreMovesNext s = true ∧ s.phase = .faulted .stackUnderflow 6 ∧ (linkAt s 0).kill ≠ none) := by decide

/-- A kill is pending: an authorised one on the first link beside an unauthorised one on the last; and
each of the two alone, at a pc inside the program and (`pc := 8`) just outside it. -/
theorem witness_AuthorisedKillDiscardsTheProgram :
    (∀ s ∈ [{ busyCore (perm 1 0) with links := [killOn 0 (perm 1 0), killOn 1 (perm 0 9)] },
        busyCore (perm 1 0), busyCore (perm 0 9), { busyCore (perm 0 9) with pc := 8 }],
      coreMovesNext s = true ∧ s.phase = .running ∧ 0 < s.nbus ∧ (linkAt s 0).kill ≠ none ∧
      s.cfg.killDiscard = .reset) ∧
    authKill State.reset.cfg (perm 1 0) (perm 1 5) = true ∧
    authKill State.reset.cfg (perm 0 9) (perm 1 5) = false ∧
    (busyCore (perm 0 9)).program[(busyCore (perm 0 9)).pc.toNat]? = some 0x0D ∧
    (busyCore (perm 0 9)).program.length = 8 := by decide

/-- The only pending kill is unauthorised, at a pc inside the program (6 of 8 bytes) and, with `pc := 8`,
just outside it. -/
theorem witness_UnauthorisedKillIsDiscarded :
    ∀ s ∈ [busyCore (perm 0 9), { busyCore (perm 0 9) with pc := 8 }],
      coreMovesNext s = true ∧ s.phase = .running ∧ 0 < s.nbus ∧
      (linkAt s 0).kill = some { permission := perm 0 9, bus := 0, data := () } ∧
      ((0 ≤ s.pc ∧ s.program[s.pc.toNat]? = some 0x0D) ∨ (s.program.length : Int) ≤ s.pc) ∧
      ∀ b m, b < s.nbus → (linkAt s b).kill = some m →
        authKill s.cfg m.permission s.permission = false := by
  intro s hs
  refine ⟨?_, ?_, ?_, ?_, ?_, fun b m hb hm => ?_⟩
  case refine_6 =>
    rcases List.mem_pair.1 hs with rfl | rfl <;>
      match b, hb with
      | 0, _ => cases hm; decide
      | 1, _ => cases hm
  all_goals rcases List.mem_pair.1 hs with rfl | rfl <;> decide

theorem witness_InceptingAgentCanAlwaysKill :
    Config.defaultParams.authIncept = .decided ∧ Config.defaultParams.authKill = .decided ∧
    authIncept Config.defaultParams (perm 1 0) (perm 1 5) = true := by decide

/-- A core awaiting inception whose last link holds an incept: authorised, failing, unauthorised. -/
def awaiting (target : Permission) (errors : Bool) : State :=
  { State.reset with links := [Link.idle, inceptOn 1 (perm 1 0) target [0x0E] errors] }

theorem witness_AwaitingCoreTakesOneIncept :
    (∀ s ∈ [awaiting (perm 1 5) false, awaiting (perm 1 5) true, awaiting (perm 2 0) false],
      coreMovesNext s = true ∧ s.phase = .awaitingInception ∧ 1 < s.nbus ∧ (linkAt s 1).incept ≠ none) ∧
    authIncept State.reset.cfg (perm 1 0) (perm 1 5) = true ∧
    authIncept State.reset.cfg (perm 1 0) (perm 2 0) = false := by decide

theorem witness_AwaitingCoreIdlesWithoutIncept :
    (let s := { State.reset with links := [killOn 0 (perm 9 9), sendOn 1 7] }
     coreMovesNext s = true ∧ s.phase = .awaitingInception ∧
     (∀ b < s.nbus, (linkAt s b).incept = none) ∧ s.closed.incept = false) ∧
    (let s := { State.reset with closed := { stream := false, incept := true, send := false, kill := false } }
     coreMovesNext s = true ∧ (∀ b < s.nbus, (linkAt s b).incept = none) ∧ s.closed.incept = true) := by decide

/-- A state whose next turn is one move of the environment. -/
def environmentNext (m : EnvMove) (s : State) : State := { s with schedule := [.environment m] }

/-- The clauses occur: an unchanged phase, an accepted incept, a failed load, an honoured kill, a fault,
and the owner's Reset. -/
theorem witness_PhasesChangeOnlyAsTheTableSays :
    (nextOf (step State.reset)).map (·.phase) = some .awaitingInception ∧
    (nextOf (step (awaiting (perm 1 5) false))).map (·.phase) = some .running ∧
    (nextOf (step (awaiting (perm 1 5) true))).map (·.phase) = some (.faulted .streamReadFailure 0) ∧
    (nextOf (step (busyCore (perm 1 0)))).map (·.phase) = some .awaitingInception ∧
    (nextOf (step (coreWith []))).map (·.phase) = some (.faulted .fetchOutOfRange 0) ∧
    (nextOf (step (environmentNext .ownerReset (coreWith [])))).map (·.phase) = some .awaitingInception ∧
    coreMovesNext (environmentNext .ownerReset (coreWith [])) = false := by decide

/-- Each kind of acceptance occurs: a `send` at `recv`, a kill while Running, an incept in
AwaitingInception. -/
theorem witness_CoreAcceptsOffersOnlyWhereListed :
    (coreMovesNext receiving = true ∧ (nextOf (step receiving)).map (fun t => (linkAt t 1).send) = some none) ∧
    (nextOf (step (busyCore (perm 1 0)))).map (fun t => (linkAt t 0).kill) = some none ∧
    (nextOf (step (awaiting (perm 1 5) false))).map (fun t => (linkAt t 1).incept) = some none := by decide

theorem witness_MaskChangesOnlyByIenAndIdi :
    (let s := { coreWith [0x10] with buses := slots true false false true }
     coreMovesNext s = true ∧ (nextOf (step s)).map (·.buses) = some (slots true false true true) ∧
       s.buses[1]? = some { sender := 1, selected := false, enabled := true }) ∧
    (let s := { coreWith [0x11] with buses := slots true false false true }
     (nextOf (step s)).map (·.buses) = some (slots true false false false)) := by decide

theorem witness_PermissionChangesOnlyByInception :
    (nextOf (step (awaiting (perm 1 5) false))).map (·.permission) = some (perm 1 5) ∧
    (nextOf (step (environmentNext .ownerReset (busyCore (perm 0 0))))).map (·.permission) =
      some (perm 0 0) := by decide

/-- The clauses occur: a step of the core, an environment move that leaves memory alone, a preload of
data and the owner's Reset that change it. -/
theorem witness_CoreNeverWritesDataMemory :
    (coreMovesNext (busyCore (perm 1 0)) = true ∧ (nextOf (step (busyCore (perm 1 0)))).isSome = true) ∧
    (nextOf (step (environmentNext (.offerSend 1 (perm 0 0) 5) (coreWith [])))).map (·.data) =
      some (coreWith []).data ∧
    (nextOf (step (environmentNext (.preload (.data 0 1)) State.reset))).map (·.data) = some [(0, 1)] ∧
    (nextOf (step (environmentNext .ownerReset (coreWith [])))).map (·.data) = some [] := by decide

theorem witness_ConstructionAndClosureAreStable :
    (nextOf (step (environmentNext (.close .kill) State.reset))).map (fun t => t.closed.get .kill) = some true ∧
    (let s := { State.reset with closed := { stream := false, incept := true, send := false, kill := false } }
     s.closed.get .incept = true ∧ (nextOf (step s)).isSome = true) := by decide

/-- A Running core with pending offers meets the invariant. -/
theorem witness_receiving_inv : Inv receiving := by
  have links : ∀ b, linkAt receiving b = sendOn 0 99 ∧ b = 0 ∨ linkAt receiving b = sendOn 1 7 ∧ b = 1 ∨
      linkAt receiving b = Link.idle := fun b => by
    match b with
    | 0 => exact .inl ⟨rfl, rfl⟩
    | 1 => exact .inr (.inl ⟨rfl, rfl⟩)
    | _ + 2 => exact .inr (.inr rfl)
  refine ⟨by decide, by decide, by decide, by decide, by decide, by decide, by decide, by decide,
    by decide, fun c p h => (by cases h), by decide, by decide, by decide, fun b => ?_, fun b m h => ?_,
    fun k b h => (by cases k <;> cases h)⟩
  · rcases links b with ⟨h, rfl⟩ | ⟨h, rfl⟩ | h <;> rw [h] <;>
      exact ⟨fun _ h => (by cases h), fun _ h => (by cases h), fun _ h => (by cases h <;> rfl), fun _ h => (by cases h)⟩
  · rcases links b with ⟨hl, rfl⟩ | ⟨hl, rfl⟩ | hl <;> rw [hl] at h <;> cases h <;> decide

theorem witness_CoreTurnAlwaysAnswers : Inv receiving ∧ coreMovesNext receiving = true :=
  ⟨witness_receiving_inv, by decide⟩

theorem witness_StepKeepsTheInvariant : Inv receiving ∧ (nextOf (step receiving)).isSome = true :=
  ⟨witness_receiving_inv, by decide⟩

theorem witness_ConstructionLeavesTheResetValues :
    State.reset = State.construct Config.defaultParams Config.defaultWiring ∧
    { sender := 1, selected := false, enabled := false } ∈ State.reset.buses := ⟨rfl, by decide⟩

theorem witness_OwnerResetKeepsTheLinks :
    (environmentNext .ownerReset (busyCore (perm 1 0))).schedule = .environment .ownerReset :: [] := by decide

/-- A Running core refuses, a Faulted one accepts. -/
theorem witness_PreloadOnlyWhileNotRunning :
    (let s := environmentNext (.preload (.dc 3 7)) (coreWith [])
     s.schedule = .environment (.preload (.dc 3 7)) :: [] ∧ s.phase = .running) ∧
    (let s := environmentNext (.preload (.dc 3 7)) State.reset
     (nextOf (step s)).map (fun t => t.dcs.get 3) = some 7) := by decide

theorem witness_PreloadedDataIsReadBack :
    (let s := environmentNext (.preload (.data 3 (-128))) State.reset
     s.schedule = .environment (.preload (.data 3 (-128))) :: [] ∧ s.phase ≠ .running ∧
     3 < s.cfg.memSize ∧ s.cfg.xlen.holds (-128) ∧ Memory.wf s.data ∧ (2 : Nat) ≠ 3) := by decide

/-- The other preloads at boundary values: the last counter, slot and conveyor place, extreme Words. -/
theorem witness_PreloadWritesTheNamedItem :
    State.reset.phase ≠ .running ∧
    (∀ v ∈ [(-128 : Int), 127], State.reset.cfg.xlen.holds v) ∧
    (∀ fr ∈ [({ pc := -128, dcs := counters 127 0 0 (-128), interrupt := true } : Frame)],
      State.reset.cfg.xlen.holds fr.pc ∧ countersHold State.reset.cfg.xlen fr.dcs) ∧
    State.reset.conveyor.length = 16 ∧ (15 : Nat) < 16 ∧
    State.reset.buses[1]? = some { sender := 1, selected := false, enabled := false } ∧
    (environmentNext (.preload (.enabled 1 true)) State.reset).schedule =
      .environment (.preload (.enabled 1 true)) :: [] ∧
    (environmentNext (.preload (.dc 3 127)) State.reset).schedule =
      .environment (.preload (.dc 3 127)) :: [] := by decide

/-- Room for an offer of each kind on the last link of an idle core; and for each kind an occupied slot.
The first link that does not exist is 2, and 128 is the first integer above the Words. -/
theorem witness_OffersOnlyInEmptySlots :
    (let s := environmentNext (.offerSend 1 (perm 0 0) 127) State.reset
     s.schedule = .environment (.offerSend 1 (perm 0 0) 127) :: [] ∧ s.cfg.xlen.holds 127 ∧
     ¬ s.cfg.xlen.holds 128 ∧ 1 < s.nbus ∧ s.nbus ≤ 2 ∧ s.links.length = s.buses.length ∧
     linkAt s 1 = Link.idle ∧ ∀ k ∈ [ChannelKind.stream, .incept, .send, .kill], s.closed.get k = false) ∧
    (let s := { State.reset with closed := { stream := true, incept := true, send := true, kill := true } }
     s.closed.stream = true ∧ s.closed.incept = true ∧ s.closed.send = true ∧ s.closed.kill = true) ∧
    (linkAt (environmentNext (.offerSend 1 (perm 0 0) 5) receiving) 1).send ≠ none ∧
    (linkAt (environmentNext (.offerKill 0 (perm 0 0)) (busyCore (perm 0 0))) 0).kill ≠ none ∧
    (linkAt (environmentNext (.offerIncept 1 (perm 0 0) (perm 0 0) { bytes := [], errors := false })
      (awaiting (perm 0 0) false)) 1).incept ≠ none ∧
    (let s := environmentNext (.offerStream 0 (perm 0 0) [1])
      { State.reset with links := [{ Link.idle with stream := some { permission := perm 0 0, bus := 0, data := [] } }, Link.idle] }
     (linkAt s 0).stream ≠ none) := by decide

theorem witness_EqualReadsMeanEqualMemories :
    Memory.wf [(0, 10), (3, -1)] ∧ Memory.wf [] := by decide

theorem witness_RotateMovesAnElementToTheTop :
    (let s := core0 [1, 2, 3] (counters 0 0 0 0)
     s.dstack.length ≤ 2 + 1 ∧ s.dstack = [1] ++ 2 :: [3] ∧ [(3 : Int)].length = 1 ∧ [(1 : Int)] ≠ []) := by decide

theorem witness_CopyDuplicatesAnElement :
    (let s := core0 [4, 5] (counters 0 0 0 0)
     s.dstack.length ≤ 1 + 1 ∧ s.dstack = [4] ++ 5 :: [] ∧ ([] : List Int).length = 0 ∧ [(4 : Int)] ≠ []) := by decide

theorem witness_CallFramesPopInReverse :
    State.reset.cstack = [] ∧
    (returning 5).cstack = [{ pc := 1, dcs := counters 0 0 0 0, interrupt := false }] ++
      [{ pc := 5, dcs := counters 1 2 3 4, interrupt := true }] := by decide

theorem witness_DeliverFillsTheFrontOfTheConveyor :
    State.reset.conveyor.length = 16 ∧ 2 ≤ (2 : Nat) ∧ (15 : Nat) ≤ 15 := by decide

theorem witness_ConveyorHoldsTheEightLatestDeliveries :
    State.reset.conveyor = List.replicate 16 0 := by decide

/-- The last documented byte and the first undefined one, each under the pc. -/
theorem witness_DocumentedProgramsAreNeverMarked :
    (∀ op ∈ (coreWith [0x00, 0x12]).program, op.toNat ≤ 0x12) ∧
    (coreWith [0x12]).phase = .running ∧ 0 ≤ (coreWith [0x12]).pc ∧
    (coreWith [0x12]).program[(coreWith [0x12]).pc.toNat]? = some 0x12 ∧
    (coreWith [0x13]).program[(coreWith [0x13]).pc.toNat]? = some 0x13 ∧
    State.reset.phase ≠ .running ∧ (coreWith []).program.length ≤ (coreWith []).pc.toNat := by decide

/-- The mark on the first undefined byte (U1, R85). -/
theorem test_mark_13 : executesUndefined (coreWith [0x13]) = true := by decide

end Sys2Proof.Machine.Tests
end

section
/-! Proof of the Word type's statement (R5): wraparound, bit patterns and the bitwise complement. -/

namespace Sys2Proof.Machine

/-- Wraparound addition is addition modulo `2^XLEN` (R5). -/
theorem wadd_congr (x : XLen) (a b : Int) : (2 : Int) ^ x.bits ∣ a + b - wadd x a b := by
  rw [← x.two_half_eq_pow]
  exact wrap_congr x (a + b)

/-- Wraparound subtraction is subtraction modulo `2^XLEN` (R5). -/
theorem wsub_congr (x : XLen) (a b : Int) : (2 : Int) ^ x.bits ∣ a - b - wsub x a b := by
  rw [← x.two_half_eq_pow]
  exact wrap_congr x (a - b)

theorem bits_of_nonneg (x : XLen) {a : Int} (h : 0 ≤ a) : bits x a = a := if_pos h

theorem bits_of_neg (x : XLen) {a : Int} (h : a < 0) : bits x a = a + 2 ^ x.bits := by
  rw [← x.two_half_eq_pow]
  exact if_neg (by omega)

/-- The pattern of a Word is an unsigned integer of XLEN bits. -/
theorem bits_range (x : XLen) {a : Int} (h : x.holds a) : 0 ≤ bits x a ∧ bits x a < 2 ^ x.bits := by
  obtain ⟨hlo, hhi⟩ := (x.holds_iff a).mp h
  have hpow := x.two_half_eq_pow
  rcases Int.lt_or_le a 0 with hneg | hnonneg
  · rw [bits_of_neg x hneg]
    omega
  · rw [bits_of_nonneg x hnonneg]
    omega

/-- Complement exchanges the signs, and the two patterns add up to all ones. -/
theorem bits_wnot (x : XLen) (a : Int) : bits x (wnot a) = 2 ^ x.bits - (bits x a + 1) := by
  unfold wnot
  rcases Int.lt_or_le a 0 with hneg | hnonneg
  · rw [bits_of_nonneg x (by omega), bits_of_neg x hneg]
    omega
  · rw [bits_of_neg x (by omega), bits_of_nonneg x hnonneg]
    omega

/-- `wnot` complements each of the XLEN bits of a Word's pattern (R5). -/
theorem testBit_bits_wnot (x : XLen) {a : Int} (h : x.holds a) {i : Nat} (hi : i < x.bits) :
    (bits x (wnot a)).toNat.testBit i = !(bits x a).toNat.testBit i := by
  obtain ⟨hnonneg, hlt⟩ := bits_range x h
  have hpow : ((2 ^ x.bits : Nat) : Int) = 2 ^ x.bits := by push_cast; rfl
  have hnat : (bits x (wnot a)).toNat = 2 ^ x.bits - ((bits x a).toNat + 1) := by
    rw [bits_wnot]
    omega
  rw [hnat, Nat.testBit_two_pow_sub_succ (by omega)]
  simp [hi]

/-- Settles O3: the ranges by the table of half ranges, the sums and differences by `wrap`, and the
bitwise reading of `wnot` by the complement of a bit pattern. -/
theorem wordOperationsAreTwosComplement : Obligations.WordOperationsAreTwosComplement := by
  unfold Obligations.WordOperationsAreTwosComplement
  intro x
  refine ⟨?wordMin, ?wordMax, ?wadd, ?wsub, neg_eq_true_iff, ?bits, ?wnot⟩
  case wordMin => rw [XLen.wordMin, x.half_eq_pow]
  case wordMax => rw [XLen.wordMax, x.half_eq_pow]
  case wadd => exact fun a b => ⟨wadd_holds x a b, wadd_congr x a b⟩
  case wsub => exact fun a b => ⟨wsub_holds x a b, wsub_congr x a b⟩
  case bits =>
    intro a _
    split
    case isTrue hnonneg => exact bits_of_nonneg x hnonneg
    case isFalse hneg => exact bits_of_neg x (Int.not_le.mp hneg)
  case wnot => exact fun a h => ⟨wnot_holds x h, rfl, fun i hi => testBit_bits_wnot x h hi⟩

end Sys2Proof.Machine
end

section
/-! Proofs of the stack engines' statements: `rotate` and `copy` (R102, R103), `pop_frame` (R107) and
`deliver` (R110). -/

namespace Sys2Proof.Machine

/-! ## The data stack -/

/-- A position at the bottom of the data stack or beyond it leaves `rotate` no element to move. -/
theorem rotate_of_length_le {s : State} {pos : Nat} (h : s.dstack.length ≤ pos + 1) :
    rotate pos s = .error ⟨.indexOutOfRange, .position pos⟩ := by
  rcases rotate_cases pos s with ⟨_, herror⟩ | ⟨_, hinside, _⟩
  · exact herror
  · omega

/-- A position at the bottom of the data stack or beyond it leaves `copy` no element to duplicate. -/
theorem copy_of_length_le {s : State} {pos : Nat} (h : s.dstack.length ≤ pos + 1) :
    copy pos s = .error ⟨.indexOutOfRange, .position pos⟩ := by
  rcases copy_cases pos s with ⟨_, herror⟩ | ⟨_, _, hinside, _⟩
  · exact herror
  · omega

section
variable {s : State} {below above : List Int} {v : Int} (h : s.dstack = below ++ v :: above)
include h

/-- With an element under it, `v` is not the bottom: the range check of `rotate` and `copy` passes. -/
theorem not_length_le_of_append (hbelow : below ≠ []) :
    ¬ above.length + 1 ≥ s.dstack.length := by
  have hpos : 0 < below.length := List.length_pos_iff.mpr hbelow
  rw [h, List.length_append, List.length_cons]
  omega

/-- The index, counted from the bottom, of the element that has `above` over it. -/
theorem index_of_append : s.dstack.length - 1 - above.length = below.length := by
  rw [h, List.length_append, List.length_cons]
  omega

/-- `rotate` takes the element out between the two parts of the stack and puts it on top (R102). -/
theorem rotate_of_append (hbelow : below ≠ []) :
    rotate above.length s = .ok { s with dstack := below ++ above ++ [v] } := by
  simp only [rotate, if_neg (not_length_le_of_append h hbelow), index_of_append h]
  simp [h]

/-- `copy` leaves the stack as it stands and puts the element on top of it (R103). -/
theorem copy_of_append (hbelow : below ≠ []) :
    copy above.length s = .ok { s with dstack := below ++ v :: above ++ [v] } := by
  simp only [copy, if_neg (not_length_le_of_append h hbelow), index_of_append h]
  simp [h]

end

/-- Settles O52, by the two sides of the range check. -/
theorem rotateMovesAnElementToTheTop : Obligations.RotateMovesAnElementToTheTop := by
  unfold Obligations.RotateMovesAnElementToTheTop
  intro s pos
  refine ⟨rotate_of_length_le, ?inside⟩
  case inside =>
    rintro below above v h rfl hbelow
    exact rotate_of_append h hbelow

/-- Settles O53, by the two sides of the range check. -/
theorem copyDuplicatesAnElement : Obligations.CopyDuplicatesAnElement := by
  unfold Obligations.CopyDuplicatesAnElement
  intro s pos
  refine ⟨copy_of_length_le, ?inside⟩
  case inside =>
    rintro below above v h rfl hbelow
    exact copy_of_append h hbelow

/-! ## The call stack -/

/-- Settles O54, by the two ways `popFrame` can answer: a non-empty stack has one last frame. -/
theorem callFramesPopInReverse : Obligations.CallFramesPopInReverse := by
  unfold Obligations.CallFramesPopInReverse
  constructor
  · intro s hempty
    rcases popFrame_cases s with ⟨_, herror⟩ | ⟨rest, fr, hframes, _⟩
    · exact herror
    · simp [hframes] at hempty
  · intro s rest fr h
    rcases popFrame_cases s with ⟨hempty, _⟩ | ⟨rest', fr', hframes, hpop⟩
    · simp [h] at hempty
    · obtain ⟨rfl, hfr⟩ := List.append_inj' (h.symm.trans hframes) rfl
      obtain rfl : fr = fr' := List.singleton_inj.mp hfr
      exact hpop

/-! ## The conveyor -/

/-- `deliver` changes the conveyor alone (R110). -/
theorem deliver_eq (value index : Int) (s : State) :
    deliver value index s =
      { s with conveyor := value :: index :: s.conveyor.dropLast.dropLast } := rfl

/-- What `deliver` adds at the front it makes room for at the rear. -/
theorem deliver_conveyor_length (value index : Int) {s : State} (h : 2 ≤ s.conveyor.length) :
    (deliver value index s).conveyor.length = s.conveyor.length := by
  rw [deliver_conveyor]
  simp only [List.length_cons, List.length_dropLast]
  omega

/-- Every slot that `deliver` keeps moves two places to the rear. -/
theorem deliver_conveyor_getElem? (value index : Int) {s : State} {i : Nat}
    (h : i + 2 < s.conveyor.length) :
    (deliver value index s).conveyor[i + 2]? = s.conveyor[i]? := by
  have hlast : i < s.conveyor.length - 1 := by omega
  have hnext : i < s.conveyor.length - 1 - 1 := by omega
  rw [deliver_conveyor, List.getElem?_cons_succ, List.getElem?_cons_succ]
  simp only [List.getElem?_dropLast, List.length_dropLast, if_pos hlast, if_pos hnext]

/-- Settles O55: the two slots that `deliver` fills, and the fourteen that it keeps. -/
theorem deliverFillsTheFrontOfTheConveyor : Obligations.DeliverFillsTheFrontOfTheConveyor := by
  unfold Obligations.DeliverFillsTheFrontOfTheConveyor
  intro s value index hlen
  refine ⟨(deliver value index s).conveyor, deliver_eq value index s, ?length, rfl, rfl, ?kept⟩
  case length => rw [deliver_conveyor_length value index (by omega), hlen]
  case kept =>
    intro i hfirst hlast
    obtain ⟨j, rfl⟩ := Nat.exists_eq_add_of_le' hfirst
    exact deliver_conveyor_getElem? value index (by omega)

end Sys2Proof.Machine
end

section
/-! Proof of the flag statement of `inc` and `dec` (R131, R141): each result is the exact one but at the
end of the Words where it wraps, and the two flags are read off the result. -/

namespace Sys2Proof.Machine

/-- The ends of the Words as `omega` reads them: WORD_MIN is negative, WORD_MAX is not (R5). -/
theorem wordLimits (x : XLen) : 0 < x.half ∧ x.wordMin = -x.half ∧ x.wordMax = x.half - 1 :=
  ⟨x.half_pos, rfl, rfl⟩

/-- An ALU answer is known by its result and by where each flag is set. -/
theorem alu_eq_mk_iff {a : Alu} {r : Int} {o c : Prop} [Decidable o] [Decidable c] :
    a = { result := r, overflow := decide o, carry := decide c } ↔
      a.result = r ∧ (a.overflow = true ↔ o) ∧ (a.carry = true ↔ c) := by
  rw [Alu.mk.injEq, Bool.eq_iff_iff (b := decide o), Bool.eq_iff_iff (b := decide c),
    decide_eq_true_iff, decide_eq_true_iff]

section
variable (x : XLen) {v : Int} (h : x.holds v)
include h

/-- Adding 1 wraps from WORD_MAX to WORD_MIN and is exact elsewhere (R5). -/
theorem wadd_one : wadd x v 1 = if v = x.wordMax then x.wordMin else v + 1 := by
  obtain ⟨hpos, hmin, hmax⟩ := wordLimits x
  obtain ⟨hlo, hhi⟩ := (x.holds_iff v).mp h
  unfold wadd
  split
  case isTrue hv =>
    rw [wrap_above x (by omega) (by omega)]
    omega
  case isFalse hv => exact wrap_of_holds x ((x.holds_iff _).mpr (by omega))

/-- Subtracting 1 wraps from WORD_MIN to WORD_MAX and is exact elsewhere (R5). -/
theorem wsub_one : wsub x v 1 = if v = x.wordMin then x.wordMax else v - 1 := by
  obtain ⟨hpos, hmin, hmax⟩ := wordLimits x
  obtain ⟨hlo, hhi⟩ := (x.holds_iff v).mp h
  unfold wsub
  split
  case isTrue hv =>
    rw [wrap_below x (by omega) (by omega)]
    omega
  case isFalse hv => exact wrap_of_holds x ((x.holds_iff _).mpr (by omega))

/-- The sum leaves the non-negative Words for the negative ones only by the wrap. -/
theorem incFlags_overflow_iff : (incFlags x v).overflow = true ↔ v = x.wordMax := by
  obtain ⟨hpos, hmin, hmax⟩ := wordLimits x
  rw [incFlags_overflow, Bool.and_eq_true, nonneg_eq_true_iff, neg_eq_true_iff, wadd_one x h]
  split <;> omega

/-- The sum is 0 from -1 alone: the wrap from WORD_MAX gives WORD_MIN, which is no 0 (conflict C1). -/
theorem incFlags_carry_iff : (incFlags x v).carry = true ↔ v = -1 := by
  obtain ⟨hpos, hmin, hmax⟩ := wordLimits x
  rw [incFlags_carry, beq_iff_eq, wadd_one x h]
  split <;> omega

/-- The difference leaves the negative Words for the non-negative ones only by the wrap. -/
theorem decFlags_overflow_iff : (decFlags x v).overflow = true ↔ v = x.wordMin := by
  obtain ⟨hpos, hmin, hmax⟩ := wordLimits x
  rw [decFlags_overflow, Bool.and_eq_true, neg_eq_true_iff, nonneg_eq_true_iff, wsub_one x h]
  split <;> omega

end

theorem decFlags_carry_iff (x : XLen) (v : Int) : (decFlags x v).carry = true ↔ v ≠ 0 := by
  rw [decFlags_carry, bne_iff_ne]

/-- Settles O4, field by field: the wrapped sum and difference of 1, and what each flag says of `v`. -/
theorem incDecFlagsMatchReferenceArithmetic : Obligations.IncDecFlagsMatchReferenceArithmetic := by
  unfold Obligations.IncDecFlagsMatchReferenceArithmetic
  intro x v h
  rw [alu_eq_mk_iff, alu_eq_mk_iff]
  exact ⟨⟨wadd_one x h, incFlags_overflow_iff x h, incFlags_carry_iff x h⟩,
    wsub_one x h, decFlags_overflow_iff x h, decFlags_carry_iff x v⟩

end Sys2Proof.Machine
end

section
/-! Proofs of the encoding statements (R80 to R86). A documented byte is checked against the table of
R85; an undefined byte is kept by the constructor of its row, so there the rows' ranges decide. -/

namespace Sys2Proof

/-! ## Which format decodes a byte -/

/-- Format S is the bytes whose bits 7:3 are clear (R81). -/
theorem extractLsb_eq_zero_iff (op : Byte) : op.extractLsb 7 3 = 0 ↔ op.toNat < 8 := by
  have hlt := op.isLt
  rw [← BitVec.toNat_inj, BitVec.extractLsb_toNat, Nat.shiftRight_eq_div_pow]
  simp only [BitVec.ofNat_eq_ofNat, BitVec.toNat_ofNat]
  omega

/-- From byte 0x13 up no row of format Z is a documented one (R85). -/
theorem decodeByte_of_undefined {op : Byte} (h : 0x13 ≤ op.toNat) :
    decodeByte op = decodeUndefined op := by
  have hformat : ¬ op.extractLsb 7 3 = 0 := by
    rw [extractLsb_eq_zero_iff]
    omega
  rw [decodeByte, if_neg hformat]
  unfold decodeZ
  split
  case h_12 => rfl
  all_goals omega

/-! ## The rows of undefined bytes, as ranges -/

theorem inRow_14to17_iff (byte : Byte) :
    Byte.inRow byte 0xFC 0x14 = true ↔ 0x14 ≤ byte.toNat ∧ byte.toNat ≤ 0x17 := by
  revert byte
  decide

theorem inRow_18to1F_iff (byte : Byte) :
    Byte.inRow byte 0xF8 0x18 = true ↔ 0x18 ≤ byte.toNat ∧ byte.toNat ≤ 0x1F := by
  revert byte
  decide

theorem inRow_20to3F_iff (byte : Byte) :
    Byte.inRow byte 0xE0 0x20 = true ↔ 0x20 ≤ byte.toNat ∧ byte.toNat ≤ 0x3F := by
  revert byte
  decide

theorem inRow_40to7F_iff (byte : Byte) :
    Byte.inRow byte 0xC0 0x40 = true ↔ 0x40 ≤ byte.toNat ∧ byte.toNat ≤ 0x7F := by
  revert byte
  decide

theorem inRow_80toFF_iff (byte : Byte) :
    Byte.inRow byte 0x80 0x80 = true ↔ 0x80 ≤ byte.toNat := by
  revert byte
  decide

/-! ## Decoding an encoding -/

/-- Decoding the byte of a well-formed instruction gives the instruction (R83, R86). -/
theorem decodeByte_encodeByte {i : Instr} (h : i.wellFormed = true) : decodeByte (encodeByte i) = i := by
  cases i with
  | rread k | add k =>
    revert k
    decide
  | undefined14to17 byte =>
    obtain ⟨hlo, hhi⟩ := (inRow_14to17_iff byte).mp h
    rw [encodeByte, decodeByte_of_undefined (by omega), decodeUndefined, if_neg (by omega),
      if_pos hhi]
  | undefined18to1F byte =>
    obtain ⟨hlo, hhi⟩ := (inRow_18to1F_iff byte).mp h
    rw [encodeByte, decodeByte_of_undefined (by omega), decodeUndefined, if_neg (by omega),
      if_neg (by omega), if_pos hhi]
  | undefined20to3F byte =>
    obtain ⟨hlo, hhi⟩ := (inRow_20to3F_iff byte).mp h
    rw [encodeByte, decodeByte_of_undefined (by omega), decodeUndefined, if_neg (by omega),
      if_neg (by omega), if_neg (by omega), if_pos hhi]
  | undefined40to7F byte =>
    obtain ⟨hlo, hhi⟩ := (inRow_40to7F_iff byte).mp h
    rw [encodeByte, decodeByte_of_undefined (by omega), decodeUndefined, if_neg (by omega),
      if_neg (by omega), if_neg (by omega), if_neg (by omega), if_pos hhi]
  | undefined80toFF byte =>
    have hlo := (inRow_80toFF_iff byte).mp h
    rw [encodeByte, decodeByte_of_undefined (by omega), decodeUndefined, if_neg (by omega),
      if_neg (by omega), if_neg (by omega), if_neg (by omega), if_neg (by omega)]
  | _ => rfl

/-! ## Encoding a decoding -/

/-- The instruction is one of the opcode map and its encoding is the byte `op` alone. -/
def Instr.EncodesTo (i : Instr) (op : Byte) : Prop := i.wellFormed = true ∧ encodeByte i = op

/-- The nineteen documented bytes, read off the table of R85. -/
theorem decodeByte_encodesTo_of_documented :
    ∀ n < 0x13, (decodeByte (BitVec.ofNat 8 n)).EncodesTo (BitVec.ofNat 8 n) := by
  unfold Instr.EncodesTo
  decide

/-- Every undefined byte lies in the row that `decodeUndefined` names, whose constructor keeps it. -/
theorem decodeUndefined_encodesTo {op : Byte} (h : 0x13 ≤ op.toNat) :
    (decodeUndefined op).EncodesTo op := by
  unfold decodeUndefined Instr.EncodesTo
  split
  · have hop : op = 0x13 := by bv_omega
    exact ⟨rfl, hop.symm⟩
  split
  · exact ⟨(inRow_14to17_iff op).mpr (by omega), rfl⟩
  split
  · exact ⟨(inRow_18to1F_iff op).mpr (by omega), rfl⟩
  split
  · exact ⟨(inRow_20to3F_iff op).mpr (by omega), rfl⟩
  split
  · exact ⟨(inRow_40to7F_iff op).mpr (by omega), rfl⟩
  · exact ⟨(inRow_80toFF_iff op).mpr (by omega), rfl⟩

/-- Every byte is the encoding of the instruction it decodes to (R83, R86). -/
theorem decodeByte_encodesTo (op : Byte) : (decodeByte op).EncodesTo op := by
  rcases Nat.lt_or_ge op.toNat 0x13 with hdocumented | hundefined
  · have h := decodeByte_encodesTo_of_documented op.toNat hdocumented
    rwa [BitVec.ofNat_toNat, BitVec.setWidth_eq] at h
  · rw [decodeByte_of_undefined hundefined]
    exact decodeUndefined_encodesTo hundefined

theorem decodeByte_wellFormed (op : Byte) : (decodeByte op).wellFormed = true :=
  (decodeByte_encodesTo op).1

@[simp] theorem encodeByte_decodeByte (op : Byte) : encodeByte (decodeByte op) = op :=
  (decodeByte_encodesTo op).2

/-- Settles O2: `decode` and `encode` are `decodeByte` and `encodeByte` on the one byte of R80, and these
are each other's inverse. -/
theorem decodeAndEncodeAgree : Obligations.DecodeAndEncodeAgree := by
  unfold Obligations.DecodeAndEncodeAgree
  constructor
  · intro i rest h
    simp only [encode, List.singleton_append, decode, decodeByte_encodeByte h]
  · intro op rest
    exact ⟨decodeByte op, decodeByte_wellFormed op, rfl, by rw [encode, encodeByte_decodeByte]⟩

/-- Settles O1: the map of R85 is a finite table, and the decoder is run on each listed byte. -/
theorem bytesOfTheMapDecode : Obligations.BytesOfTheMapDecode := by
  unfold Obligations.BytesOfTheMapDecode
  decide

end Sys2Proof

namespace Sys2Proof.Machine

/-! ## The mark of undefined bytes (U1) -/

/-- A byte decodes to a documented instruction exactly up to 0x12 (R85). -/
theorem documented_decodeByte (op : Byte) : documented (decodeByte op) = true ↔ op.toNat ≤ 0x12 := by
  rw [documented, encodeByte_decodeByte, decide_eq_true_iff]

/-- A Running core with a byte at its pc is marked by that byte. -/
theorem executesUndefined_of_byte {s : State} {op : Byte} (hphase : s.phase = .running)
    (hpc : 0 ≤ s.pc) (hop : s.program[s.pc.toNat]? = some op) :
    executesUndefined s = true ↔ 0x13 ≤ op.toNat := by
  have hdocumented := documented_decodeByte op
  simp only [executesUndefined, hphase, fetch_of_byte hpc hop, beq_self_eq_true, Bool.true_and,
    Bool.not_eq_true', Bool.eq_false_iff, ne_eq, hdocumented]
  omega

theorem executesUndefined_of_not_running {s : State} (h : s.phase ≠ .running) :
    executesUndefined s = false := by
  simp [executesUndefined, h]

theorem executesUndefined_of_outside {s : State} (h : s.pc < 0 ∨ s.program.length ≤ s.pc) :
    executesUndefined s = false := by
  simp [executesUndefined, fetch_of_outside h]

/-- Settles O57: the fetch finds a byte, whose range decides the mark, or finds none. -/
theorem documentedProgramsAreNeverMarked : Obligations.DocumentedProgramsAreNeverMarked := by
  unfold Obligations.DocumentedProgramsAreNeverMarked
  refine ⟨fun p => ?program, fun s => ⟨fun hbytes => ?never, fun op => executesUndefined_of_byte, ?outside⟩⟩
  case program => simp only [documentedProgram, List.all_eq_true, documented_decodeByte]
  case never =>
    rcases fetch_cases s with ⟨op, hpc, hop, -⟩ | ⟨houtside, -⟩
    · rw [Bool.eq_false_iff]
      intro hmark
      by_cases hphase : s.phase = .running
      · have hundefined := (executesUndefined_of_byte hphase hpc hop).mp hmark
        have hdocumented := hbytes op (List.mem_of_getElem? hop)
        omega
      · simp [executesUndefined_of_not_running hphase] at hmark
    · exact executesUndefined_of_outside houtside
  case outside =>
    rintro (hphase | houtside)
    · exact executesUndefined_of_not_running hphase
    · exact executesUndefined_of_outside houtside

end Sys2Proof.Machine
end

section
/-! Proof of the flag statement of `add` (R131, R138): the exact sum of two Words is a Word, or lies below
or above them by less than one range, and the wrapped sum tells which by its sign. -/

namespace Sys2Proof.Machine

section
variable (x : XLen) {a v : Int} (ha : x.holds a) (hv : x.holds v)
include ha hv

/-- The sum of two Words wraps by one range at the most (R5). -/
theorem wadd_eq_ite : wadd x a v =
    if a + v < x.wordMin then a + v + 2 * x.half
    else if x.wordMax < a + v then a + v - 2 * x.half else a + v := by
  obtain ⟨hpos, hmin, hmax⟩ := wordLimits x
  obtain ⟨halo, hahi⟩ := (x.holds_iff a).mp ha
  obtain ⟨hvlo, hvhi⟩ := (x.holds_iff v).mp hv
  unfold wadd
  split
  case isTrue hbelow => exact wrap_below x (by omega) (by omega)
  case isFalse hnotBelow =>
    split
    case isTrue habove => exact wrap_above x (by omega) (by omega)
    case isFalse hnotAbove => exact wrap_of_holds x ((x.holds_iff _).mpr (by omega))

/-- Equal signs that the wrapped sum does not have: the exact sum is no Word (R138). -/
theorem addFlags_overflow_iff : (addFlags x a v).overflow = true ↔ ¬ x.holds (a + v) := by
  obtain ⟨hpos, hmin, hmax⟩ := wordLimits x
  obtain ⟨halo, hahi⟩ := (x.holds_iff a).mp ha
  obtain ⟨hvlo, hvhi⟩ := (x.holds_iff v).mp hv
  rw [addFlags_overflow, Bool.and_eq_true, beq_iff_eq, bne_iff_ne, ne_eq, neg_eq_neg_iff,
    neg_eq_neg_iff, wadd_eq_ite x ha hv, x.holds_iff]
  split
  · omega
  · split <;> omega

/-- Two negative Words with a non-negative wrapped sum: the exact sum is below WORD_MIN (R138, conflict
C3). -/
theorem addFlags_carry_iff : (addFlags x a v).carry = true ↔ a + v < x.wordMin := by
  obtain ⟨hpos, hmin, hmax⟩ := wordLimits x
  obtain ⟨halo, hahi⟩ := (x.holds_iff a).mp ha
  obtain ⟨hvlo, hvhi⟩ := (x.holds_iff v).mp hv
  rw [addFlags_carry, Bool.and_eq_true, Bool.and_eq_true, neg_eq_true_iff, neg_eq_true_iff,
    nonneg_eq_true_iff, wadd_eq_ite x ha hv]
  split
  · omega
  · split <;> omega

end

/-- Settles O5: each flag by what the wrapped sum says of the exact one. -/
theorem addFlagsAreSignedOverflow : Obligations.AddFlagsAreSignedOverflow := by
  unfold Obligations.AddFlagsAreSignedOverflow
  intro x a v ha hv
  refine ⟨?overflow, ?carry, ?result⟩
  case overflow => rw [Bool.eq_iff_iff, addFlags_overflow_iff x ha hv, decide_eq_true_iff]
  case carry => rw [Bool.eq_iff_iff, addFlags_carry_iff x ha hv, decide_eq_true_iff]
  case result => rw [addFlags_result, wadd_eq_ite x ha hv, x.two_half_eq_pow]

end Sys2Proof.Machine
end

section
/-! Proofs of the instructions' own statements (R120 to R163). What the two transforms of the stack top
answer is said once, by the stack and by what the transform answers; each instruction is then a use. -/

namespace Sys2Proof.Machine

/-! ## The transforms of the stack top -/

section
variable {s : State} {rest : List Int} {v : Int}

theorem popTransform_of_nil (f : Int → Except Raise Int) (h : s.dstack = []) :
    popTransform f s = .error ⟨.stackUnderflow, .nothing⟩ := by
  simp only [popTransform, top_of_nil h]

theorem popTransform_of_error {f : Int → Except Raise Int} {e : Raise} (h : s.dstack = rest ++ [v])
    (hf : f v = .error e) : popTransform f s = .error e := by
  simp only [popTransform, top_of_append h, hf]

theorem popTransform_of_ok {f : Int → Except Raise Int} {r : Int} (h : s.dstack = rest ++ [v])
    (hf : f v = .ok r) : popTransform f s = .ok { s with dstack := rest ++ [r] } := by
  simp only [popTransform, top_of_append h, hf, replaceTop_of_append h]

theorem transformTop_of_nil (f : Int → Except Raise Alu) (h : s.dstack = []) :
    transformTop f s = .error ⟨.stackUnderflow, .nothing⟩ := by
  simp only [transformTop, top_of_nil h]

theorem transformTop_of_error {f : Int → Except Raise Alu} {e : Raise} (h : s.dstack = rest ++ [v])
    (hf : f v = .error e) : transformTop f s = .error e := by
  simp only [transformTop, top_of_append h, hf]

theorem transformTop_of_ok {f : Int → Except Raise Alu} {a : Alu} (h : s.dstack = rest ++ [v])
    (hf : f v = .ok a) : transformTop f s =
      .ok { s with dstack := rest ++ [a.result], overflow := a.overflow, carry := a.carry } := by
  simp only [transformTop, top_of_append h, hf, replaceTop_of_append h, writeFlags]

end

/-! ## Memory-read instructions -/

/-- Settles O6: the effective address is in range, so the transform answers the Word there. -/
theorem rreadReadsBasePlusOffset : Obligations.RreadReadsBasePlusOffset := by
  unfold Obligations.RreadReadsBasePlusOffset
  intro s k rest v h hlo hhi
  have hread := memRead_of_inRange (s := s) hlo hhi
  rw [exec_rread, execRread, popTransform_of_ok h hread, conclude_ok]
  rfl

/-- The effective address of `reads` is the stack top itself (R122). -/
theorem execReads_eq (s : State) : execReads s = conclude s (popTransform (memRead s) s) := rfl

/-- Settles O7, as O6 with the top itself for the address. -/
theorem readsReadsTheTopAsAddress : Obligations.ReadsReadsTheTopAsAddress := by
  unfold Obligations.ReadsReadsTheTopAsAddress
  intro s rest v h hlo hhi
  have hread := memRead_of_inRange (s := s) hlo hhi
  rw [exec_reads, execReads_eq, popTransform_of_ok h hread, conclude_ok]
  rfl

/-- `add<k>` traps on an empty stack before its address is looked at (R74, D34). -/
theorem execAdd_of_nil {s : State} (k : Fin 4) (h : s.dstack = []) :
    execAdd k s = .next (takeFault ⟨.stackUnderflow, .nothing⟩ s) := by
  rw [execAdd, transformTop_of_nil _ h, conclude_error]

/-- `add<k>` traps on a counter that is no address of data memory (R132, R226). -/
theorem execAdd_of_outOfRange {s : State} {k : Fin 4} {rest : List Int} {v : Int}
    (h : s.dstack = rest ++ [v]) (haddress : s.dcs.get k < 0 ∨ s.cfg.memSize ≤ s.dcs.get k) :
    execAdd k s = .next (takeFault ⟨.addressOutOfRange, .address (s.dcs.get k)⟩ s) := by
  rw [execAdd, transformTop_of_error h (by rw [eaBaseDirect, memRead_of_outOfRange haddress]),
    conclude_error]

/-- Settles O8: an empty stack ends either transform at once; otherwise the memory read raises. -/
theorem memoryReadersTrapStackFirst : Obligations.MemoryReadersTrapStackFirst := by
  unfold Obligations.MemoryReadersTrapStackFirst
  intro s k
  refine ⟨fun h => ⟨?rreadEmpty, ?readsEmpty, execAdd_of_nil k h⟩,
    fun rest v h => ⟨fun haddress => ?rread, fun haddress => ?reads, execAdd_of_outOfRange h⟩⟩
  case rreadEmpty => rw [exec_rread, execRread, popTransform_of_nil _ h, conclude_error]
  case readsEmpty => rw [exec_reads, execReads_eq, popTransform_of_nil _ h, conclude_error]
  case rread =>
    have hread := memRead_of_outOfRange haddress
    rw [exec_rread, execRread, popTransform_of_error h hread, conclude_error]
  case reads =>
    have hread := memRead_of_outOfRange haddress
    rw [exec_reads, execReads_eq, popTransform_of_error h hread, conclude_error]

/-! ## Arithmetic instructions -/

/-- The flags of `add` read as conditions on the signs of the two operands and of the result (R131). -/
theorem addFlags_eq_mk {x : XLen} {a v r : Int} (hr : r = wadd x a v) :
    addFlags x a v =
      { result := r
        overflow := decide ((a < 0 ↔ v < 0) ∧ ¬ (r < 0 ↔ a < 0))
        carry := decide (a < 0 ∧ v < 0 ∧ 0 ≤ r) } := by
  subst hr
  rw [alu_eq_mk_iff]
  refine ⟨rfl, ?overflow, ?carry⟩
  case overflow =>
    rw [addFlags_overflow, Bool.and_eq_true, beq_iff_eq, bne_iff_ne, ne_eq, neg_eq_neg_iff,
      neg_eq_neg_iff]
  case carry =>
    rw [addFlags_carry, Bool.and_eq_true, Bool.and_eq_true, neg_eq_true_iff, neg_eq_true_iff,
      nonneg_eq_true_iff, and_assoc]

/-- The flags of `inc` read as conditions on the operand and the result (R131). -/
theorem incFlags_eq_mk {x : XLen} {v r : Int} (hr : r = wadd x v 1) :
    incFlags x v = { result := r, overflow := decide (0 ≤ v ∧ r < 0), carry := decide (r = 0) } := by
  subst hr
  rw [alu_eq_mk_iff, incFlags_overflow, incFlags_carry, Bool.and_eq_true, nonneg_eq_true_iff,
    neg_eq_true_iff, beq_iff_eq]
  exact ⟨rfl, Iff.rfl, Iff.rfl⟩

/-- The flags of `dec` read as conditions on the operand and the result (R131). -/
theorem decFlags_eq_mk {x : XLen} {v r : Int} (hr : r = wsub x v 1) :
    decFlags x v = { result := r, overflow := decide (v < 0 ∧ 0 ≤ r), carry := decide (v ≠ 0) } := by
  subst hr
  rw [alu_eq_mk_iff, decFlags_overflow, decFlags_carry, Bool.and_eq_true, neg_eq_true_iff,
    nonneg_eq_true_iff, bne_iff_ne]
  exact ⟨rfl, Iff.rfl, Iff.rfl⟩

/-- Settles O9: both errors as in O8, and otherwise the flags of R131 read as conditions on signs. -/
theorem addAddsMemoryToTheTop : Obligations.AddAddsMemoryToTheTop := by
  unfold Obligations.AddAddsMemoryToTheTop
  intro s k
  refine ⟨decodeByte_encodeByte (i := .add k) rfl, execAdd_of_nil k,
    fun rest v h => ⟨execAdd_of_outOfRange h, ?sum⟩⟩
  case sum =>
    rintro hlo hhi a r rfl hr
    have hread := memRead_of_inRange (s := s) hlo hhi
    rw [exec_add, execAdd, transformTop_of_ok h (by rw [eaBaseDirect, hread]), addFlags_eq_mk hr,
      conclude_ok]
    rfl

section
variable {s : State}

/-- The `inc` transform raises on an empty stack, for `inc` and `carry` alike (R133, R135). -/
theorem conclude_incTop_of_nil (h : s.dstack = []) :
    conclude s (incTop s) = .next (takeFault ⟨.stackUnderflow, .nothing⟩ s) := by
  rw [incTop, transformTop_of_nil _ h, conclude_error]

theorem conclude_incTop_of_append {rest : List Int} {v r : Int} (h : s.dstack = rest ++ [v])
    (hr : r = wadd s.cfg.xlen v 1) :
    conclude s (incTop s) = .next { s with
      dstack := rest ++ [r]
      overflow := decide (0 ≤ v ∧ r < 0)
      carry := decide (r = 0)
      pc := wadd s.cfg.xlen s.pc 1 } := by
  rw [incTop, transformTop_of_ok h rfl, incFlags_eq_mk hr, conclude_ok]
  rfl

/-- The `dec` transform raises on an empty stack, for `dec` and `borrow` alike (R134, R136). -/
theorem conclude_decTop_of_nil (h : s.dstack = []) :
    conclude s (decTop s) = .next (takeFault ⟨.stackUnderflow, .nothing⟩ s) := by
  rw [decTop, transformTop_of_nil _ h, conclude_error]

theorem conclude_decTop_of_append {rest : List Int} {v r : Int} (h : s.dstack = rest ++ [v])
    (hr : r = wsub s.cfg.xlen v 1) :
    conclude s (decTop s) = .next { s with
      dstack := rest ++ [r]
      overflow := decide (v < 0 ∧ 0 ≤ r)
      carry := decide (v ≠ 0)
      pc := wadd s.cfg.xlen s.pc 1 } := by
  rw [decTop, transformTop_of_ok h rfl, decFlags_eq_mk hr, conclude_ok]
  rfl

end

/-- Settles O10: `inc` is its transform of the stack top. -/
theorem incAddsOneToTheTop : Obligations.IncAddsOneToTheTop := by
  unfold Obligations.IncAddsOneToTheTop
  exact ⟨decodeByte_encodeByte (i := .inc) rfl,
    fun s => ⟨conclude_incTop_of_nil, fun _ _ _ => conclude_incTop_of_append⟩⟩

/-- Settles O11: `dec` is its transform of the stack top. -/
theorem decSubtractsOneFromTheTop : Obligations.DecSubtractsOneFromTheTop := by
  unfold Obligations.DecSubtractsOneFromTheTop
  exact ⟨decodeByte_encodeByte (i := .dec) rfl,
    fun s => ⟨conclude_decTop_of_nil, fun _ _ _ => conclude_decTop_of_append⟩⟩

/-- With the flag set `carry` does what `inc` does (R135, D24). -/
theorem execCarry_of_set {s : State} (h : s.carry = true) : execCarry s = conclude s (incTop s) := by
  rw [execCarry, if_pos h]

/-- With the flag clear `carry` clears both flags on any stack (R135). -/
theorem execCarry_of_clear {s : State} (h : s.carry = false) :
    execCarry s = conclude s (.ok (writeFlags false false s)) := by
  rw [execCarry, h, if_neg Bool.false_ne_true]

/-- With the flag set `borrow` keeps the stack: no borrow is outstanding (R136). -/
theorem execBorrow_of_set {s : State} (h : s.carry = true) :
    execBorrow s = conclude s (.ok (writeFlags false true s)) := by
  rw [execBorrow, if_pos h]

/-- With the flag clear `borrow` does what `dec` does (R136, D24). -/
theorem execBorrow_of_clear {s : State} (h : s.carry = false) :
    execBorrow s = conclude s (decTop s) := by
  rw [execBorrow, h, if_neg Bool.false_ne_true]

/-- Settles O12, by the flag: the `inc` transform of O10, or two cleared flags. -/
theorem carryPropagatesOrClears : Obligations.CarryPropagatesOrClears := by
  unfold Obligations.CarryPropagatesOrClears
  intro s
  refine ⟨fun hset h => ?empty, fun hset rest v r h hr => ?propagates, fun hclear => ?clears⟩
  case empty => rw [exec_carry, execCarry_of_set hset, conclude_incTop_of_nil h]
  case propagates => rw [exec_carry, execCarry_of_set hset, conclude_incTop_of_append h hr]
  case clears =>
    rw [exec_carry, execCarry_of_clear hclear, conclude_ok]
    rfl

/-- Settles O13, by the flag: the stack kept, or the `dec` transform of O11. -/
theorem borrowPropagatesOrKeeps : Obligations.BorrowPropagatesOrKeeps := by
  unfold Obligations.BorrowPropagatesOrKeeps
  intro s
  refine ⟨fun hset => ?keeps, fun hclear h => ?empty, fun hclear rest v r h hr => ?propagates⟩
  case keeps =>
    rw [exec_borrow, execBorrow_of_set hset, conclude_ok]
    rfl
  case empty => rw [exec_borrow, execBorrow_of_clear hclear, conclude_decTop_of_nil h]
  case propagates => rw [exec_borrow, execBorrow_of_clear hclear, conclude_decTop_of_append h hr]

/-- Settles O14: the complement never raises, so only the empty stack does. -/
theorem invComplementsTheTop : Obligations.InvComplementsTheTop := by
  unfold Obligations.InvComplementsTheTop
  intro s
  refine ⟨fun h => ?empty, fun rest v h => ?complement⟩
  case empty => rw [exec_inv, execInv, popTransform_of_nil _ h, conclude_error]
  case complement =>
    rw [exec_inv, execInv, popTransform_of_ok (f := fun v => .ok (wnot v)) h rfl, conclude_ok]
    rfl

/-! ## Control instructions -/

/-- `noOperation` advances the pc and changes nothing else (R150, R152). -/
theorem noOperation_eq (s : State) : noOperation s = .next { s with pc := wadd s.cfg.xlen s.pc 1 } := rfl

/-- Settles O15: `flush` is `noOperation`. -/
theorem flushIsNoOperation : Obligations.FlushIsNoOperation := by
  unfold Obligations.FlushIsNoOperation
  exact ⟨decodeByte_encodeByte (i := .flush) rfl, noOperation_eq⟩

/-- The byte's row does not matter: each of the six is `noOperation` (R152). -/
theorem exec_decodeUndefined (op : Byte) (s : State) :
    exec (decodeUndefined op) s = noOperation s := by
  unfold decodeUndefined
  repeat' split
  all_goals rfl

/-- Settles O16: from 0x13 up a byte decodes into a row of undefined bytes. -/
theorem undefinedBytesAreNoOperation : Obligations.UndefinedBytesAreNoOperation := by
  unfold Obligations.UndefinedBytesAreNoOperation
  intro s
  refine ⟨fun op h => ?byte, noOperation_eq s, fun op => ⟨noOperation_eq s, noOperation_eq s,
    noOperation_eq s, noOperation_eq s, noOperation_eq s⟩⟩
  case byte => rw [decodeByte_of_undefined h, exec_decodeUndefined, noOperation_eq]

/-- Settles O17, by the two answers of `pop_frame`; a frame's pc is a Word, so D5's offset 0 keeps it. -/
theorem retRestoresTheTopFrame : Obligations.RetRestoresTheTopFrame := by
  unfold Obligations.RetRestoresTheTopFrame
  obtain ⟨hnil, happend⟩ := callFramesPopInReverse
  refine fun s => ⟨fun h => ?empty, fun rest fr h hpc => ?restores⟩
  case empty => rw [exec_ret, execRet, hnil s h]
  case restores =>
    rw [exec_ret, execRet, happend s rest fr h]
    simp only [restoreFrame, wadd_zero s.cfg.xlen hpc]

/-- Settles O59: `push_frame` puts its frame last, where `pop_frame` finds it (R107). -/
theorem pushedFrameIsPoppedBack : Obligations.PushedFrameIsPoppedBack := by
  unfold Obligations.PushedFrameIsPoppedBack
  rintro s pc dcs interrupt fr rfl
  obtain ⟨-, hpop⟩ := callFramesPopInReverse
  exact ⟨rfl, hpop (pushFrame pc dcs interrupt s) s.cstack _ rfl⟩

/-! ## Interrupt control instructions -/

/-- `ien` maps each slot by itself, so its index finds it again (R160). -/
theorem enableSelected_getElem? {s : State} {b : Nat} {slot : BusSlot} (h : s.buses[b]? = some slot) :
    (enableSelected s).buses[b]? = some { slot with enabled := slot.enabled || slot.selected } := by
  rw [enableSelected_buses, List.getElem?_map, h, Option.map_some]

/-- `idi` maps each slot by itself, so its index finds it again (R161). -/
theorem disableAll_getElem? {s : State} {b : Nat} {slot : BusSlot} (h : s.buses[b]? = some slot) :
    (disableAll s).buses[b]? = some { slot with enabled := false } := by
  rw [disableAll_buses, List.getElem?_map, h, Option.map_some]

/-- Settles O18, slot by slot. -/
theorem ienEnablesSelectedBuses : Obligations.IenEnablesSelectedBuses := by
  unfold Obligations.IenEnablesSelectedBuses
  exact fun s => ⟨advance (enableSelected s), rfl, rfl, List.length_map _,
    fun _ _ => enableSelected_getElem?⟩

/-- Settles O19: as O18, and the links, which hold the offers, are not written. -/
theorem idiDisablesEveryBus : Obligations.IdiDisablesEveryBus := by
  unfold Obligations.IdiDisablesEveryBus
  exact ⟨decodeByte_encodeByte (i := .idi) rfl, fun s => ⟨advance (disableAll s), rfl, rfl,
    List.length_map _, fun _ _ => disableAll_getElem?, fun _ => rfl⟩⟩

/-- The Word cast of a bus index is exact under the bound of R4 (D18). -/
theorem busIndexWord_of_busBound {s : State} {b : Nat} (hb : b < s.nbus) (hbound : busBound s) :
    busIndexWord s.cfg.xlen b = b := by
  have hpos := s.cfg.xlen.half_pos
  unfold busBound at hbound
  exact wrap_of_holds s.cfg.xlen ((XLen.holds_iff _ _).mpr (by omega))

/-- Settles O20: the pending offer is acceptable, so `recv` takes one of the acceptable ones. -/
theorem recvDeliversOneEnabledOffer : Obligations.RecvDeliversOneEnabledOffer := by
  unfold Obligations.RecvDeliversOneEnabledOffer
  intro s c n hc henabled hn
  have hpending : (c, n) ∈ acceptableSends s := mem_acceptableSends.mpr ⟨hc, henabled, hn⟩
  rcases execRecv_cases s with ⟨b, m, hm, hexec⟩ | ⟨hnone, -⟩ | ⟨hnone, -⟩
  · obtain ⟨hb, hbenabled, hsend⟩ := mem_acceptableSends.mp hm
    refine ⟨b, m, hb, hbenabled, hsend, busIndexWord_of_busBound hb, ?_⟩
    rw [exec_recv, hexec, advance_deliver_acceptSend]
  · exact absurd (hnone ▸ hpending) List.not_mem_nil
  · exact absurd (hnone ▸ hpending) List.not_mem_nil

/-- Settles O21: with no acceptable offer the closed indication decides between the wait and the error. -/
theorem recvWaitsOrFindsTheChannelClosed : Obligations.RecvWaitsOrFindsTheChannelClosed := by
  unfold Obligations.RecvWaitsOrFindsTheChannelClosed
  intro s hnone
  rw [exec_recv]
  rcases execRecv_cases s with ⟨b, m, hm, -⟩ | ⟨-, hclosed, hexec⟩ | ⟨-, hopen, hexec⟩
  · obtain ⟨hb, henabled, hsend⟩ := mem_acceptableSends.mp hm
    simp [hnone b hb henabled] at hsend
  · exact ⟨fun hopen => by simp [hclosed] at hopen, fun _ => hexec⟩
  · exact ⟨fun _ => hexec, fun hclosed => by simp [hopen] at hclosed⟩

/-- Settles O22: the one offer that `recv` takes is on an enabled bus. -/
theorem recvKeepsOffersOfDisabledBuses : Obligations.RecvKeepsOffersOfDisabledBuses := by
  unfold Obligations.RecvKeepsOffersOfDisabledBuses
  intro s t b hexec hdisabled
  rw [exec_recv] at hexec
  rcases execRecv_cases s with ⟨c, m, hm, haccept⟩ | ⟨-, -, hfault⟩ | ⟨-, -, hwait⟩
  · obtain ⟨-, henabled, -⟩ := mem_acceptableSends.mp hm
    have hother : ¬ (b = c ∧ b < s.links.length) := by
      rintro ⟨rfl, -⟩
      simp [hdisabled] at henabled
    rw [haccept, Host.Outcome.next.injEq] at hexec
    have hlinks : t.links = (acceptSend c s).links := hexec ▸ rfl
    rw [linkAt_congr hlinks, linkAt_acceptSend, if_neg hother]
  · rw [hfault, Host.Outcome.next.injEq] at hexec
    exact linkAt_congr (hexec ▸ rfl) b
  · rw [hwait, Host.Outcome.next.injEq] at hexec
    rw [hexec]

end Sys2Proof.Machine
end

section
/-! Proofs of what every instruction keeps (R39, R40, R228, R235). `Effect` says once what the execution
of an instruction can be; each statement is then a property of the effects. -/

namespace Sys2Proof.Machine

/-! ## What an instruction can do -/

/-- What an instruction that writes no flag may put in the place of the top `v`: a Word of data memory
(R120, R121) or the complement of `v` (R137). -/
def TransformsTo (s : State) (v r : Int) : Prop := (∃ a, r = s.data.read a) ∨ r = wnot v

/-- The next states an instruction can have: a listed error taken from the state before (R228, R235), a
wait, or its own effect on the registers that the access table (R39) gives it, the pc advanced. -/
inductive Effect (s : State) : Instr → State → Prop
  | fault {i : Instr} {e : Raise} : e.kind ∈ mayRaise i → Effect s i (takeFault e s)
  | wait : Effect s .recv s
  | pcOnly (i : Instr) : Effect s i { s with pc := wadd s.cfg.xlen s.pc 1 }
  | topOnly {i : Instr} {rest : List Int} {v r : Int} : usesStackTop i = true →
      s.dstack = rest ++ [v] → TransformsTo s v r →
      Effect s i { s with dstack := rest ++ [r], pc := wadd s.cfg.xlen s.pc 1 }
  | topAndFlags {i : Instr} {rest : List Int} {v r : Int} {overflow carry : Bool} :
      usesStackTop i = true → writesFlags i = true → s.dstack = rest ++ [v] → s.cfg.xlen.holds r →
      Effect s i { s with
        dstack := rest ++ [r]
        overflow := overflow
        carry := carry
        pc := wadd s.cfg.xlen s.pc 1 }
  | flagsOnly {i : Instr} (overflow carry : Bool) : writesFlags i = true →
      Effect s i { s with overflow := overflow, carry := carry, pc := wadd s.cfg.xlen s.pc 1 }
  | restore {rest : List Frame} {fr : Frame} : s.cstack = rest ++ [fr] →
      Effect s .ret { s with
        cstack := rest
        dcs := fr.dcs
        interrupt := s.interrupt || fr.interrupt
        pc := wadd s.cfg.xlen fr.pc Config.retResumeOffset }
  | enable : Effect s .ien { s with
      buses := (enableSelected s).buses
      pc := wadd s.cfg.xlen s.pc 1 }
  | disable : Effect s .idi { s with
      buses := (disableAll s).buses
      pc := wadd s.cfg.xlen s.pc 1 }
  | accept {b : Nat} {m : Com Int} : (b, m) ∈ acceptableSends s →
      Effect s .recv { s with
        conveyor := m.data :: busIndexWord s.cfg.xlen b :: s.conveyor.dropLast.dropLast
        links := (acceptSend b s).links
        draws := s.draws + 1
        pc := wadd s.cfg.xlen s.pc 1 }

/-- A meaning's outcome is a next state that is an effect of the instruction. -/
def Executes (s : State) (i : Instr) (o : Host.Outcome State Fault Refusal) : Prop :=
  ∃ t, o = .next t ∧ Effect s i t

/-- An error raised by a meaning is taken. -/
theorem executes_fault {s : State} {i : Instr} {e : Raise} (h : e.kind ∈ mayRaise i) :
    Executes s i (conclude s (.error e)) := ⟨_, rfl, .fault h⟩

/-- The transform of the top by an instruction that writes no flag. -/
theorem executes_popTransform {s : State} {i : Instr} {f : Int → Except Raise Int}
    (htop : usesStackTop i = true) (hunderflow : ErrorKind.stackUnderflow ∈ mayRaise i)
    (herror : ∀ v e, f v = .error e → e.kind ∈ mayRaise i)
    (hok : ∀ v r, f v = .ok r → TransformsTo s v r) :
    Executes s i (conclude s (popTransform f s)) := by
  rcases popTransform_cases f s with ⟨-, h⟩ | ⟨rest, v, e, -, he, h⟩ | ⟨rest, v, r, hstack, hr, h⟩ <;>
    rw [h]
  · exact executes_fault hunderflow
  · exact executes_fault (herror v e he)
  · exact ⟨_, rfl, .topOnly htop hstack (hok v r hr)⟩

/-- The transform of the top by an instruction that writes the flags. -/
theorem executes_transformTop {s : State} {i : Instr} {f : Int → Except Raise Alu}
    (htop : usesStackTop i = true) (hflags : writesFlags i = true)
    (hunderflow : ErrorKind.stackUnderflow ∈ mayRaise i)
    (herror : ∀ v e, f v = .error e → e.kind ∈ mayRaise i)
    (hok : ∀ v a, f v = .ok a → s.cfg.xlen.holds a.result) :
    Executes s i (conclude s (transformTop f s)) := by
  rcases transformTop_cases f s with ⟨-, h⟩ | ⟨rest, v, e, -, he, h⟩ | ⟨rest, v, a, hstack, ha, h⟩ <;>
    rw [h]
  · exact executes_fault hunderflow
  · exact executes_fault (herror v e he)
  · exact ⟨_, rfl, .topAndFlags htop hflags hstack (hok v a ha)⟩

/-- A memory read answers a Word of data memory or raises AddressOutOfRange alone (R62). -/
theorem memRead_error_kind {s : State} {addr : Int} {e : Raise} (h : memRead s addr = .error e) :
    e.kind = .addressOutOfRange := by
  rcases memRead_cases s addr with ⟨-, -, hread⟩ | ⟨-, hread⟩ <;> rw [hread] at h <;> cases h
  rfl

theorem memRead_ok_read {s : State} {addr r : Int} (h : memRead s addr = .ok r) :
    ∃ a, r = s.data.read a := by
  rcases memRead_cases s addr with ⟨-, -, hread⟩ | ⟨-, hread⟩ <;> rw [hread] at h <;> cases h
  exact ⟨_, rfl⟩

/-- The two instructions that only read memory (R120, R121). -/
theorem executes_memoryRead {s : State} {i : Instr} (address : Int → Int)
    (htop : usesStackTop i = true)
    (hraise : mayRaise i = [.stackUnderflow, .addressOutOfRange]) :
    Executes s i (conclude s (popTransform (fun v => memRead s (address v)) s)) := by
  refine executes_popTransform htop (by simp [hraise]) (fun v e he => ?_)
    (fun v r hr => .inl (memRead_ok_read hr))
  simp [hraise, memRead_error_kind he]

theorem execAdd_executes (k : Fin 4) (s : State) : Executes s (.add k) (execAdd k s) := by
  unfold execAdd
  cases hread : memRead s (eaBaseDirect s k) with
  | error e =>
    refine executes_transformTop rfl rfl (by simp [mayRaise]) (fun v e' he => ?_) (by simp)
    cases he
    simp [mayRaise, memRead_error_kind hread]
  | ok w =>
    refine executes_transformTop rfl rfl (by simp [mayRaise]) (by simp) (fun v a ha => ?_)
    cases ha
    exact wadd_holds s.cfg.xlen w v

/-- The `inc` transform is an effect of either instruction that ends with it. -/
theorem conclude_incTop_executes {s : State} {i : Instr} (htop : usesStackTop i = true)
    (hflags : writesFlags i = true) (hunderflow : ErrorKind.stackUnderflow ∈ mayRaise i) :
    Executes s i (conclude s (incTop s)) := by
  refine executes_transformTop htop hflags hunderflow (by simp) (fun v a ha => ?_)
  cases ha
  exact wadd_holds s.cfg.xlen v 1

/-- The `dec` transform is an effect of either instruction that ends with it. -/
theorem conclude_decTop_executes {s : State} {i : Instr} (htop : usesStackTop i = true)
    (hflags : writesFlags i = true) (hunderflow : ErrorKind.stackUnderflow ∈ mayRaise i) :
    Executes s i (conclude s (decTop s)) := by
  refine executes_transformTop htop hflags hunderflow (by simp) (fun v a ha => ?_)
  cases ha
  exact wsub_holds s.cfg.xlen v 1

theorem execCarry_executes (s : State) : Executes s .carry (execCarry s) := by
  unfold execCarry
  split
  · exact conclude_incTop_executes rfl rfl (by simp [mayRaise])
  · exact ⟨_, rfl, .flagsOnly false false rfl⟩

theorem execBorrow_executes (s : State) : Executes s .borrow (execBorrow s) := by
  unfold execBorrow
  split
  · exact ⟨_, rfl, .flagsOnly false true rfl⟩
  · exact conclude_decTop_executes rfl rfl (by simp [mayRaise])

theorem execInv_executes (s : State) : Executes s .inv (execInv s) := by
  refine executes_popTransform rfl (by simp [mayRaise]) (by simp) (fun v r hr => .inr ?_)
  cases hr
  rfl

theorem execRet_executes (s : State) : Executes s .ret (execRet s) := by
  unfold execRet
  rcases popFrame_cases s with ⟨-, h⟩ | ⟨rest, fr, hframes, h⟩ <;> rw [h]
  · exact executes_fault (by simp [mayRaise])
  · exact ⟨_, rfl, .restore hframes⟩

theorem execRecv_executes (s : State) : Executes s .recv (execRecv s) := by
  rcases execRecv_cases s with ⟨b, m, hm, h⟩ | ⟨-, -, h⟩ | ⟨-, -, h⟩ <;> rw [h]
  · exact ⟨_, congrArg _ (advance_deliver_acceptSend ..), .accept hm⟩
  · exact executes_fault (by simp [mayRaise])
  · exact ⟨_, rfl, .wait⟩

/-- What every arm of `exec` does, in every state. -/
theorem exec_executes (i : Instr) (s : State) : Executes s i (exec i s) := by
  cases i with
  | rread k => exact executes_memoryRead (eaIndexed s k) rfl rfl
  | add k => exact execAdd_executes k s
  | inc => exact conclude_incTop_executes rfl rfl (by simp [mayRaise])
  | dec => exact conclude_decTop_executes rfl rfl (by simp [mayRaise])
  | carry => exact execCarry_executes s
  | borrow => exact execBorrow_executes s
  | inv => exact execInv_executes s
  | reads => exact executes_memoryRead eaStackDirect rfl rfl
  | ret => exact execRet_executes s
  | ien => exact ⟨_, rfl, .enable⟩
  | idi => exact ⟨_, rfl, .disable⟩
  | recv => exact execRecv_executes s
  | flush => exact ⟨_, rfl, .pcOnly .flush⟩
  | undefined13 => exact ⟨_, rfl, .pcOnly .undefined13⟩
  | undefined14to17 byte => exact ⟨_, rfl, .pcOnly (.undefined14to17 byte)⟩
  | undefined18to1F byte => exact ⟨_, rfl, .pcOnly (.undefined18to1F byte)⟩
  | undefined20to3F byte => exact ⟨_, rfl, .pcOnly (.undefined20to3F byte)⟩
  | undefined40to7F byte => exact ⟨_, rfl, .pcOnly (.undefined40to7F byte)⟩
  | undefined80toFF byte => exact ⟨_, rfl, .pcOnly (.undefined80toFF byte)⟩

theorem effect_of_exec {i : Instr} {s t : State} (h : exec i s = .next t) : Effect s i t := by
  obtain ⟨u, hu, heffect⟩ := exec_executes i s
  rw [hu, Host.Outcome.next.injEq] at h
  exact h ▸ heffect

/-- Settles O23: each arm's outcome is a next state. -/
theorem everyInstructionAnswersANextState : Obligations.EveryInstructionAnswersANextState := by
  unfold Obligations.EveryInstructionAnswersANextState
  intro i s
  obtain ⟨t, h, -⟩ := exec_executes i s
  exact ⟨t, h⟩

/-! ## What the effects keep -/

section
variable {s t : State} {i : Instr} (h : Effect s i t)
include h

/-- The items that no effect writes: parameters, permission, program, data memory, closed indications
and the schedule. -/
theorem Effect.frame : t.cfg = s.cfg ∧ t.permission = s.permission ∧ t.program = s.program ∧
    t.data = s.data ∧ t.closed = s.closed ∧ t.schedule = s.schedule := by
  cases h <;> exact ⟨rfl, rfl, rfl, rfl, rfl, rfl⟩

/-- An effect replaces the top of the data stack at the most. -/
theorem Effect.dstack : t.dstack = s.dstack ∨
    ∃ rest v r, s.dstack = rest ++ [v] ∧ t.dstack = rest ++ [r] := by
  cases h with
  | topOnly _ hstack _ => exact .inr ⟨_, _, _, hstack, rfl⟩
  | topAndFlags _ _ hstack _ => exact .inr ⟨_, _, _, hstack, rfl⟩
  | _ => exact .inl rfl

/-- The bus slots change by `ien` and `idi` alone. -/
theorem Effect.buses : t.buses = s.buses ∨
    (i = .ien ∧ t.buses = (enableSelected s).buses) ∨
    (i = .idi ∧ t.buses = (disableAll s).buses) := by
  cases h with
  | enable => exact .inr (.inl ⟨rfl, rfl⟩)
  | disable => exact .inr (.inr ⟨rfl, rfl⟩)
  | _ => exact .inl rfl

/-- The links change by the acceptance of a `send` alone. -/
theorem Effect.links : t.links = s.links ∨
    ∃ b m, i = .recv ∧ (b, m) ∈ acceptableSends s ∧ t.links = (acceptSend b s).links := by
  cases h with
  | accept hm => exact .inr ⟨_, _, rfl, hm, rfl⟩
  | _ => exact .inl rfl

end

/-- Settles O24: the frame of the effects, and what the three items written in part keep. -/
theorem instructionsNeverChangeMemoryOrAuthority :
    Obligations.InstructionsNeverChangeMemoryOrAuthority := by
  unfold Obligations.InstructionsNeverChangeMemoryOrAuthority
  intro i s t hexec
  have h := effect_of_exec hexec
  obtain ⟨hcfg, hpermission, hprogram, hdata, hclosed, hschedule⟩ := h.frame
  refine ⟨hdata, fun a => by rw [hdata], hprogram, hpermission, ?depth, ?belowTop, ?selected,
    ?sender, hcfg, hclosed, hschedule, fun b => ?offers⟩
  case depth =>
    rcases h.dstack with heq | ⟨rest, v, r, hs, ht⟩
    · rw [heq]
    · rw [hs, ht, List.length_append, List.length_append, List.length_singleton, List.length_singleton]
  case belowTop =>
    rcases h.dstack with heq | ⟨rest, v, r, hs, ht⟩
    · rw [heq]
    · rw [hs, ht, List.dropLast_concat, List.dropLast_concat]
  case selected =>
    rcases h.buses with heq | ⟨-, heq⟩ | ⟨-, heq⟩ <;> simp [heq]
  case sender =>
    rcases h.buses with heq | ⟨-, heq⟩ | ⟨-, heq⟩ <;> simp [heq]
  case offers =>
    rcases h.links with heq | ⟨c, m, -, -, heq⟩
    · rw [linkAt_congr heq]
      exact ⟨rfl, rfl, rfl⟩
    · rw [linkAt_congr heq, linkAt_acceptSend]
      split <;> exact ⟨rfl, rfl, rfl⟩

/-! ## Which instruction writes which register (R39) -/

section
variable {s t : State} {i : Instr} (h : Effect s i t)
include h

theorem Effect.frameRegisters_of_ne_ret (hi : i ≠ .ret) :
    t.dcs = s.dcs ∧ t.interrupt = s.interrupt ∧ t.cstack = s.cstack := by
  cases h with
  | restore => exact absurd rfl hi
  | _ => exact ⟨rfl, rfl, rfl⟩

theorem Effect.flags_of_not_writesFlags (hi : writesFlags i = false) :
    t.carry = s.carry ∧ t.overflow = s.overflow := by
  cases h with
  | topAndFlags _ hwrites => simp [hi] at hwrites
  | flagsOnly _ _ hwrites => simp [hi] at hwrites
  | _ => exact ⟨rfl, rfl⟩

theorem Effect.dstack_of_not_usesStackTop (hi : usesStackTop i = false) : t.dstack = s.dstack := by
  cases h with
  | topOnly huses => simp [hi] at huses
  | topAndFlags huses => simp [hi] at huses
  | _ => rfl

theorem Effect.conveyor_of_ne_recv (hi : i ≠ .recv) :
    t.conveyor = s.conveyor ∧ t.links = s.links ∧ t.draws = s.draws := by
  cases h with
  | accept => exact absurd rfl hi
  | _ => exact ⟨rfl, rfl, rfl⟩

theorem Effect.buses_of_ne_ien_of_ne_idi (hien : i ≠ .ien) (hidi : i ≠ .idi) : t.buses = s.buses := by
  rcases h.buses with heq | ⟨hi, -⟩ | ⟨hi, -⟩
  · exact heq
  · exact absurd hi hien
  · exact absurd hi hidi

/-- An effect is a listed error's fault entry, or leaves phase, `running` and reports alone (R235). -/
theorem Effect.fault_or_keeps_phase :
    (t.phase = s.phase ∧ t.running = s.running ∧ t.reports = s.reports) ∨
    ∃ e, e.kind ∈ mayRaise i ∧ t = takeFault e s := by
  cases h with
  | fault he => exact .inr ⟨_, he, rfl⟩
  | _ => exact .inl ⟨rfl, rfl, rfl⟩

end

/-- Settles O25, register by register. -/
theorem registersChangeOnlyWhereTheTableSays : Obligations.RegistersChangeOnlyWhereTheTableSays := by
  unfold Obligations.RegistersChangeOnlyWhereTheTableSays
  intro i s t hexec
  have h := effect_of_exec hexec
  exact ⟨h.frameRegisters_of_ne_ret, h.flags_of_not_writesFlags, h.dstack_of_not_usesStackTop,
    h.conveyor_of_ne_recv, h.buses_of_ne_ien_of_ne_idi⟩

/-- Settles O26: an effect is a fault entry or none. -/
theorem faultsArePreciseAndListed : Obligations.FaultsArePreciseAndListed := by
  unfold Obligations.FaultsArePreciseAndListed
  intro i s t hexec
  exact (effect_of_exec hexec).fault_or_keeps_phase

/-! ## No instruction reads the permission (R237)

Replacing the permission commutes with every shared operation, and so with every meaning. -/

/-- The state under another permission. -/
def withPermission (p : Permission) (s : State) : State := { s with permission := p }

section
variable (p : Permission) (s : State)

theorem popTransform_withPermission (f : Int → Except Raise Int) :
    popTransform f (withPermission p s) = (popTransform f s).map (withPermission p) := by
  rcases popTransform_cases f s with ⟨hs, h⟩ | ⟨rest, v, e, hs, he, h⟩ | ⟨rest, v, r, hs, hr, h⟩ <;>
    rw [h]
  · exact popTransform_of_nil f hs
  · exact popTransform_of_error hs he
  · exact popTransform_of_ok hs hr

theorem transformTop_withPermission (f : Int → Except Raise Alu) :
    transformTop f (withPermission p s) = (transformTop f s).map (withPermission p) := by
  rcases transformTop_cases f s with ⟨hs, h⟩ | ⟨rest, v, e, hs, he, h⟩ | ⟨rest, v, a, hs, ha, h⟩ <;>
    rw [h]
  · exact transformTop_of_nil f hs
  · exact transformTop_of_error hs he
  · exact transformTop_of_ok hs ha

/-- The end of a meaning does not read the permission either. -/
theorem conclude_withPermission (r : Except Raise State) {t : State} (h : conclude s r = .next t) :
    conclude (withPermission p s) (r.map (withPermission p)) = .next (withPermission p t) := by
  cases r <;> cases h <;> rfl

theorem conclude_popTransform_withPermission (f : Int → Except Raise Int) {t : State}
    (h : conclude s (popTransform f s) = .next t) :
    conclude (withPermission p s) (popTransform f (withPermission p s)) =
      .next (withPermission p t) := by
  rw [popTransform_withPermission]
  exact conclude_withPermission p s _ h

theorem conclude_transformTop_withPermission (f : Int → Except Raise Alu) {t : State}
    (h : conclude s (transformTop f s) = .next t) :
    conclude (withPermission p s) (transformTop f (withPermission p s)) =
      .next (withPermission p t) := by
  rw [transformTop_withPermission]
  exact conclude_withPermission p s _ h

theorem execCarry_withPermission {t : State} (h : execCarry s = .next t) :
    execCarry (withPermission p s) = .next (withPermission p t) := by
  cases hflag : s.carry with
  | true =>
    rw [execCarry_of_set hflag] at h
    rw [execCarry_of_set (s := withPermission p s) hflag]
    exact conclude_transformTop_withPermission p s _ h
  | false =>
    rw [execCarry_of_clear hflag] at h
    rw [execCarry_of_clear (s := withPermission p s) hflag]
    exact conclude_withPermission p s (.ok _) h

theorem execBorrow_withPermission {t : State} (h : execBorrow s = .next t) :
    execBorrow (withPermission p s) = .next (withPermission p t) := by
  cases hflag : s.carry with
  | true =>
    rw [execBorrow_of_set hflag] at h
    rw [execBorrow_of_set (s := withPermission p s) hflag]
    exact conclude_withPermission p s (.ok _) h
  | false =>
    rw [execBorrow_of_clear hflag] at h
    rw [execBorrow_of_clear (s := withPermission p s) hflag]
    exact conclude_transformTop_withPermission p s _ h

theorem execRet_withPermission {t : State} (h : execRet s = .next t) :
    execRet (withPermission p s) = .next (withPermission p t) := by
  obtain ⟨hnil, happend⟩ := callFramesPopInReverse
  rcases popFrame_cases s with ⟨hs, hpop⟩ | ⟨rest, fr, hs, hpop⟩ <;> rw [execRet, hpop] at h <;>
    cases h
  · rw [execRet, hnil (withPermission p s) hs]
    rfl
  · rw [execRet, happend (withPermission p s) rest fr hs]
    rfl

/-- Both runs of `recv` see the same offers and draw the same free choice (log entry 2). -/
theorem execRecv_withPermission {t : State} (h : execRecv s = .next t) :
    execRecv (withPermission p s) = .next (withPermission p t) := by
  have hsame : choose (withPermission p s).draws (acceptableSends (withPermission p s)) =
      choose s.draws (acceptableSends s) := rfl
  unfold execRecv at h ⊢
  rw [hsame]
  cases hchoice : choose s.draws (acceptableSends s) with
  | some offer =>
    rw [hchoice] at h
    exact conclude_withPermission p s (.ok _) h
  | none =>
    have hclosed : (withPermission p s).closed = s.closed := rfl
    rw [hchoice] at h
    simp only [hclosed] at h ⊢
    split at h <;> rename_i hsend
    · rw [if_pos hsend]
      exact conclude_withPermission p s (.error _) h
    · rw [if_neg hsend]
      cases h
      rfl

/-- Each meaning commutes with the replacement of the permission. -/
theorem exec_withPermission (i : Instr) {t : State} (h : exec i s = .next t) :
    exec i (withPermission p s) = .next (withPermission p t) := by
  cases i with
  | rread | inv | reads => exact conclude_popTransform_withPermission p s _ h
  | add | inc | dec => exact conclude_transformTop_withPermission p s _ h
  | carry => exact execCarry_withPermission p s h
  | borrow => exact execBorrow_withPermission p s h
  | ret => exact execRet_withPermission p s h
  | recv => exact execRecv_withPermission p s h
  | ien | idi => exact conclude_withPermission p s (.ok _) h
  | _ => exact conclude_withPermission p s (.ok s) h

end

/-- Settles O27: the permission is replaced before or after the instruction, with one result. -/
theorem permissionNeverInfluencesAnInstruction :
    Obligations.PermissionNeverInfluencesAnInstruction := by
  unfold Obligations.PermissionNeverInfluencesAnInstruction
  intro i s t p h
  exact exec_withPermission p s i h

end Sys2Proof.Machine
end

section
/-! Proofs of the statements about one turn of the core: fault entry, the cycle, the kill poll and
inception (R181 to R183, R200 to R211, R234). -/

namespace Sys2Proof.Machine

/-- Settles O28: the record is `takeFault` as it is written, and the codes are its table (D9). -/
theorem faultEntryRecordsAndReports : Obligations.FaultEntryRecordsAndReports := by
  unfold Obligations.FaultEntryRecordsAndReports
  exact ⟨fun e s => rfl, rfl⟩

/-! ## The core's turn by phase -/

section
variable {s : State}

theorem step_of_awaiting (hcore : coreMovesNext s = true) (hphase : s.phase = .awaitingInception) :
    step s = .next (awaitTurn (spendTurn s)) := by
  rw [step_of_coreMovesNext hcore]
  simp only [coreTurn, spendTurn_phase, hphase]

theorem step_of_running (hcore : coreMovesNext s = true) (hphase : s.phase = .running) :
    step s = cycle (spendTurn s) := by
  rw [step_of_coreMovesNext hcore]
  simp only [coreTurn, spendTurn_phase, hphase]

theorem cycle_of_proceed {u : State} (h : killPoll s = .proceed u) : cycle s = runInstruction u := by
  simp only [cycle, h]

theorem cycle_of_honoured {u : State} (h : killPoll s = .honoured u) : cycle s = .next u := by
  simp only [cycle, h]

theorem runInstruction_of_byte {op : Byte} (hpc : 0 ≤ s.pc) (hop : s.program[s.pc.toNat]? = some op) :
    runInstruction s = exec (decodeByte op) s := by
  simp only [runInstruction, fetch_of_byte hpc hop]

theorem runInstruction_of_outside (h : s.pc < 0 ∨ s.program.length ≤ s.pc) :
    runInstruction s = .next (takeFault ⟨.fetchOutOfRange, .address s.pc⟩ s) := by
  simp only [runInstruction, fetch_of_outside h]

/-- With no kill pending a cycle is the fetch and the instruction (R205, R208). -/
theorem step_of_no_kill (hcore : coreMovesNext s = true) (hphase : s.phase = .running)
    (hnone : ∀ b < s.nbus, (linkAt s b).kill = none) : step s = runInstruction (spendTurn s) := by
  rw [step_of_running hcore hphase, cycle_of_proceed (killPoll_of_none (s := spendTurn s) hnone)]

end

/-- Settles O29: the poll finds nothing and the fetch finds the byte. -/
theorem stepRunsTheDecodedInstruction : Obligations.StepRunsTheDecodedInstruction := by
  unfold Obligations.StepRunsTheDecodedInstruction
  intro s op hcore hphase hnone hpc hop
  refine ⟨decodeByte_wellFormed op, ?_⟩
  rw [step_of_no_kill hcore hphase hnone, runInstruction_of_byte (s := spendTurn s) hpc hop]

/-- Settles O30: the poll finds nothing and the fetch finds no byte. -/
theorem fetchOutsideTheProgramFaults : Obligations.FetchOutsideTheProgramFaults := by
  unfold Obligations.FetchOutsideTheProgramFaults
  intro s hcore hphase hnone houtside
  rw [step_of_no_kill hcore hphase hnone, runInstruction_of_outside (s := spendTurn s) houtside,
    spendTurn_pc]

/-- Settles O31: the turn of a Faulted core is an empty one (R211). -/
theorem faultedCoreDoesNothing : Obligations.FaultedCoreDoesNothing := by
  unfold Obligations.FaultedCoreDoesNothing
  intro s c p hcore hphase
  rw [step_of_coreMovesNext hcore]
  simp only [coreTurn, spendTurn_phase, hphase]

/-! ## Kill -/

/-- An honoured kill under KILL_DISCARD_MODE reset, as one record (R206). -/
theorem honourKill_acceptKill_of_reset {s : State} (b : Nat) (h : s.cfg.killDiscard = .reset) :
    honourKill (acceptKill b (spendTurn s)) = { s with
      running := false
      phase := .awaitingInception
      program := []
      pc := 0
      dcs := { dc0 := 0, dc1 := 0, dc2 := 0, dc3 := 0 }
      carry := false
      overflow := false
      interrupt := false
      dstack := []
      cstack := []
      links := s.links.modify b fun l => { l with kill := none }
      draws := s.draws + 1
      schedule := s.schedule.tail } := by
  have hmode : (acceptKill b (spendTurn s)).cfg.killDiscard = .reset := h
  rw [honourKill, discardedContext_of_reset hmode, acceptKill_spendTurn]
  rfl

/-- A pending kill is polled: an authorised one is honoured, or an unauthorised one is consumed. -/
theorem killPoll_of_pending {s : State} {c : Nat} {n : Com Unit} (hc : c < s.nbus)
    (hn : (linkAt s c).kill = some n) :
    ∃ b m, b < s.nbus ∧ (linkAt s b).kill = some m ∧
      (authKill s.cfg m.permission s.permission = true →
        killPoll s = .honoured (honourKill (acceptKill b s))) ∧
      (authKill s.cfg m.permission s.permission = false → killPoll s = .proceed (acceptKill b s)) := by
  have hpending : (c, n) ∈ killOffers s := mem_killOffers.mpr ⟨hc, hn⟩
  rcases killPoll_cases s with ⟨hnone, -⟩ | ⟨b, m, hm, hauth, hpoll⟩ | ⟨b, m, hm, hauth, hpoll⟩
  · exact absurd (hnone ▸ hpending) List.not_mem_nil
  all_goals
    obtain ⟨hb, hkill⟩ := mem_killOffers.mp hm
    refine ⟨b, m, hb, hkill, ?_⟩
    simp [hauth, hpoll]

/-- Settles O32: the poll's answer for the kill it takes, and what the cycle makes of it. -/
theorem authorisedKillDiscardsTheProgram : Obligations.AuthorisedKillDiscardsTheProgram := by
  unfold Obligations.AuthorisedKillDiscardsTheProgram
  intro s c n hcore hphase hc hn
  obtain ⟨b, m, hb, hkill, htrue, hfalse⟩ := killPoll_of_pending (s := spendTurn s) hc hn
  refine ⟨b, m, hb, hkill, fun hauth => ?authorised, fun hauth => ?unauthorised⟩
  case authorised =>
    have hstep : step s = .next (honourKill (acceptKill b (spendTurn s))) := by
      rw [step_of_running hcore hphase, cycle_of_honoured (htrue hauth)]
    refine ⟨fun hreset => ?whole, _, hstep, ?retained⟩
    case whole => rw [hstep, honourKill_acceptKill_of_reset b hreset]
    case retained => simp
  case unauthorised =>
    have hstep : step s = runInstruction (acceptKill b (spendTurn s)) := by
      rw [step_of_running hcore hphase, cycle_of_proceed (hfalse hauth)]
    rw [hstep, acceptKill_spendTurn]
    exact ⟨fun op hpc hop => runInstruction_of_byte hpc hop, fun h => runInstruction_of_outside h⟩

/-- Settles O33: O32 where the kill that is taken is known to be unauthorised. -/
theorem unauthorisedKillIsDiscarded : Obligations.UnauthorisedKillIsDiscarded := by
  unfold Obligations.UnauthorisedKillIsDiscarded
  intro s c n hcore hphase hc hn hunauthorised
  obtain ⟨b, m, hb, hkill, -, hproceeds⟩ := authorisedKillDiscardsTheProgram s c n hcore hphase hc hn
  exact ⟨b, m, hb, hkill, hproceeds (hunauthorised b m hb hkill)⟩

/-! ## Access checks -/

theorem authIncept_of_decided {cfg : Params} (h : cfg.authIncept = .decided) (m t : Permission) :
    authIncept cfg m t = true ↔ t.privilege.toNat ≤ m.privilege.toNat := by
  simp only [authIncept, h, decide_eq_true_eq]

theorem authKill_of_decided {cfg : Params} (h : cfg.authKill = .decided) (m c : Permission) :
    authKill cfg m c = true ↔ c.privilege.toNat ≤ m.privilege.toNat := by
  simp only [authKill, h, ge_iff_le, decide_eq_true_eq]

/-- Settles O34: both decided predicates are the one comparison of privileges. -/
theorem inceptingAgentCanAlwaysKill : Obligations.InceptingAgentCanAlwaysKill := by
  unfold Obligations.InceptingAgentCanAlwaysKill
  intro cfg hincept hkill
  refine ⟨authIncept_of_decided hincept, authKill_of_decided hkill, fun m t hauth => ?_⟩
  rw [authKill_of_decided hkill]
  exact (authIncept_of_decided hincept m t).mp hauth

/-! ## Inception -/

/-- What an accepted and drained incept leaves in a state whose turn is spent (R203, R204). -/
theorem load_acceptIncept_cases (source : ByteSource) (target : Permission) (b : Nat) (s : State) :
    (source.errors = false ∧ load source (beginLoading target (acceptIncept b s)) = { s with
      permission := target
      program := source.bytes
      pc := 0
      running := true
      phase := .running
      links := (acceptIncept b s).links
      draws := s.draws + 1 }) ∨
    (source.errors = true ∧ ∃ taken, taken <+: source.bytes ∧
      load source (beginLoading target (acceptIncept b s)) =
        takeFault ⟨.streamReadFailure, .nothing⟩ { s with
          permission := target
          program := taken
          phase := .loading
          links := (acceptIncept b s).links
          draws := s.draws + 1 }) := by
  rcases load_cases source (beginLoading target (acceptIncept b s)) with ⟨herr, h⟩ | ⟨herr, n, h⟩
  · exact .inl ⟨herr, h⟩
  · exact .inr ⟨herr, _, List.take_prefix n _, h⟩

/-- Settles O35: the acceptance of one offer, its authority, and the outcome of draining its source. -/
theorem awaitingCoreTakesOneIncept : Obligations.AwaitingCoreTakesOneIncept := by
  unfold Obligations.AwaitingCoreTakesOneIncept
  intro s c n hcore hphase hc hn
  have hpending : (c, n) ∈ inceptOffers (spendTurn s) := mem_inceptOffers.mpr ⟨hc, hn⟩
  rw [step_of_awaiting hcore hphase]
  rcases awaitTurn_cases (spendTurn s) with
    ⟨hnone, -⟩ | ⟨hnone, -⟩ | ⟨b, m, hm, hauth, hturn⟩ | ⟨b, m, hm, hauth, hturn⟩
  · exact absurd (hnone ▸ hpending) List.not_mem_nil
  · exact absurd (hnone ▸ hpending) List.not_mem_nil
  all_goals
    obtain ⟨hb, hincept⟩ := mem_inceptOffers.mp hm
    rw [spendTurn_cfg] at hauth
    refine ⟨b, m, hb, hincept, ?_⟩
    rw [hturn]
  · rw [acceptIncept_spendTurn]
    simp [hauth]
  · rcases load_acceptIncept_cases m.data.source m.data.target b (spendTurn s) with
      ⟨herrors, hload⟩ | ⟨herrors, taken, htaken, hload⟩ <;> rw [hload]
    · exact ⟨fun h => by simp [hauth] at h, fun _ _ => rfl, fun _ h => by simp [herrors] at h⟩
    · exact ⟨fun h => by simp [hauth] at h, fun _ h => by simp [herrors] at h,
        fun _ _ => ⟨taken, htaken, rfl⟩⟩

/-- Settles O36: with no incept the closed indication decides between the wait and the error. -/
theorem awaitingCoreIdlesWithoutIncept : Obligations.AwaitingCoreIdlesWithoutIncept := by
  unfold Obligations.AwaitingCoreIdlesWithoutIncept
  intro s hcore hphase hnone
  have hempty : ∀ b m, (b, m) ∉ inceptOffers (spendTurn s) := by
    intro b m hm
    obtain ⟨hb, hincept⟩ := mem_inceptOffers.mp hm
    have hno : (linkAt s b).incept = none := hnone b hb
    simp [hno] at hincept
  rw [step_of_awaiting hcore hphase]
  rcases awaitTurn_cases (spendTurn s) with
    ⟨-, hopen, hturn⟩ | ⟨-, hclosed, hturn⟩ | ⟨b, m, hm, -⟩ | ⟨b, m, hm, -⟩
  · rw [spendTurn_closed] at hopen
    simp [hopen, hturn]
  · rw [spendTurn_closed] at hclosed
    simp [hclosed, hturn]
  · exact absurd hm (hempty b m)
  · exact absurd hm (hempty b m)

end Sys2Proof.Machine
end

section
/-! Proofs of the rules of the whole machine. `CoreStep` says once what a turn of the core can leave
(R201 to R211); each rule is then a property of these steps and of the environment's moves. -/

namespace Sys2Proof.Machine

/-! ## What a turn of the core can leave -/

/-- The state a cycle goes on from after its poll: no kill was pending, or an unauthorised one was
consumed (R205). -/
inductive Polled (s : State) : State → Prop
  | noKill : Polled s s
  | consumed {b : Nat} {m : Com Unit} : (b, m) ∈ killOffers s →
      Polled s { s with links := (acceptKill b s).links, draws := s.draws + 1 }

/-- The next states of a core whose turn it is. -/
inductive CoreStep (s : State) : State → Prop
  | wait : s.phase = .awaitingInception → CoreStep s s
  | inceptClosed : s.phase = .awaitingInception → s.closed.incept = true →
      CoreStep s (takeFault ⟨.channelClosed, .channel .incept⟩ s)
  | rejected {b : Nat} {m : Com InceptPayload} :
      s.phase = .awaitingInception → (b, m) ∈ inceptOffers s →
      CoreStep s { s with links := (acceptIncept b s).links, draws := s.draws + 1 }
  | started {b : Nat} {m : Com InceptPayload} :
      s.phase = .awaitingInception → (b, m) ∈ inceptOffers s →
      authIncept s.cfg m.permission m.data.target = true → m.data.source.errors = false →
      CoreStep s { s with
        permission := m.data.target
        program := m.data.source.bytes
        pc := 0
        running := true
        phase := .running
        links := (acceptIncept b s).links
        draws := s.draws + 1 }
  | failed {b : Nat} {m : Com InceptPayload} (taken : List Byte) :
      s.phase = .awaitingInception → (b, m) ∈ inceptOffers s →
      authIncept s.cfg m.permission m.data.target = true → m.data.source.errors = true →
      CoreStep s (takeFault ⟨.streamReadFailure, .nothing⟩ { s with
        permission := m.data.target
        program := taken
        phase := .loading
        links := (acceptIncept b s).links
        draws := s.draws + 1 })
  | killed {b : Nat} {m : Com Unit} :
      s.phase = .running → (b, m) ∈ killOffers s →
      authKill s.cfg m.permission s.permission = true → CoreStep s (honourKill (acceptKill b s))
  | outside {u : State} : s.phase = .running → Polled s u →
      CoreStep s (takeFault ⟨.fetchOutOfRange, .address s.pc⟩ u)
  | executed {u t : State} {i : Instr} :
      s.phase = .running → Polled s u → fetch s = .ok i → Effect u i t → CoreStep s t
  | stopped {c : ErrorKind} {p : Int} : s.phase = .faulted c p → CoreStep s s

/-- The poll leaves the fetch what it was (R205, R209). -/
theorem Polled.pc_program {s u : State} (h : Polled s u) : u.pc = s.pc ∧ u.program = s.program := by
  cases h <;> exact ⟨rfl, rfl⟩

theorem Polled.fetch_eq {s u : State} (h : Polled s u) : fetch u = fetch s := by
  cases h <;> rfl

theorem coreStep_of_awaitTurn {s : State} (hphase : s.phase = .awaitingInception) :
    CoreStep s (awaitTurn s) := by
  rcases awaitTurn_cases s with
    ⟨-, -, h⟩ | ⟨-, hclosed, h⟩ | ⟨b, m, hm, -, h⟩ | ⟨b, m, hm, hauth, h⟩ <;> rw [h]
  · exact .wait hphase
  · exact .inceptClosed hphase hclosed
  · exact .rejected hphase hm
  · rcases load_acceptIncept_cases m.data.source m.data.target b s with
      ⟨herrors, hload⟩ | ⟨herrors, taken, -, hload⟩ <;> rw [hload]
    · exact .started hphase hm hauth herrors
    · exact .failed taken hphase hm hauth herrors

theorem coreStep_of_runInstruction {s u t : State} (hphase : s.phase = .running) (hu : Polled s u)
    (h : runInstruction u = .next t) : CoreStep s t := by
  obtain ⟨hpc, -⟩ := hu.pc_program
  rcases fetch_cases u with ⟨op, hlo, hop, hfetch⟩ | ⟨houtside, -⟩
  · rw [runInstruction_of_byte hlo hop] at h
    exact .executed hphase hu (hu.fetch_eq ▸ hfetch) (effect_of_exec h)
  · rw [runInstruction_of_outside houtside, hpc, Host.Outcome.next.injEq] at h
    exact h ▸ .outside hphase hu

theorem coreStep_of_cycle {s t : State} (hphase : s.phase = .running) (h : cycle s = .next t) :
    CoreStep s t := by
  rcases killPoll_cases s with ⟨-, hpoll⟩ | ⟨b, m, hm, hauth, hpoll⟩ | ⟨b, m, hm, -, hpoll⟩
  · rw [cycle_of_proceed hpoll] at h
    exact coreStep_of_runInstruction hphase .noKill h
  · rw [cycle_of_honoured hpoll, Host.Outcome.next.injEq] at h
    exact h ▸ .killed hphase hm hauth
  · rw [cycle_of_proceed hpoll] at h
    exact coreStep_of_runInstruction hphase (.consumed hm) h

/-- Every next state of the core's turn is a `CoreStep`. -/
theorem coreStep_of_coreTurn {s t : State} (h : coreTurn s = .next t) : CoreStep s t := by
  rcases coreTurn_cases s with
    ⟨hphase, hturn⟩ | ⟨-, hturn⟩ | ⟨hphase, hturn⟩ | ⟨c, p, hphase, hturn⟩ <;> rw [hturn] at h
  · rw [Host.Outcome.next.injEq] at h
    exact h ▸ coreStep_of_awaitTurn hphase
  · cases h
  · exact coreStep_of_cycle hphase h
  · rw [Host.Outcome.next.injEq] at h
    exact h ▸ .stopped hphase

theorem coreStep_of_step {s t : State} (hcore : coreMovesNext s = true) (h : step s = .next t) :
    CoreStep (spendTurn s) t := by
  rw [step_of_coreMovesNext hcore] at h
  exact coreStep_of_coreTurn h

/-! ## What a turn of the core keeps and changes -/

/-- Some authorised incept is pending whose source drains as `errors` says and whose target `p` is. -/
def InceptGrants (s : State) (errors : Bool) (p : Permission) : Prop :=
  ∃ b m, b < s.nbus ∧ (linkAt s b).incept = some m ∧ m.data.source.errors = errors ∧
    authIncept s.cfg m.permission m.data.target = true ∧ p = m.data.target

section
variable {s t u : State}

/-- What the poll leaves of the items that later rules speak of. -/
theorem Polled.frame (h : Polled s u) :
    u.cfg = s.cfg ∧ u.phase = s.phase ∧ u.permission = s.permission ∧ u.data = s.data ∧
      u.buses = s.buses ∧ u.closed = s.closed := by
  cases h <;> exact ⟨rfl, rfl, rfl, rfl, rfl, rfl⟩

/-- No turn of the core writes the parameters, data memory or the closed indications. -/
theorem CoreStep.frame (h : CoreStep s t) : t.cfg = s.cfg ∧ t.data = s.data ∧ t.closed = s.closed := by
  cases h with
  | outside _ hu =>
    obtain ⟨hcfg, -, -, hdata, -, hclosed⟩ := hu.frame
    exact ⟨hcfg, hdata, hclosed⟩
  | executed _ hu _ heffect =>
    obtain ⟨hcfg, -, -, hdata, -, hclosed⟩ := hu.frame
    obtain ⟨hcfg', -, -, hdata', hclosed', -⟩ := heffect.frame
    exact ⟨hcfg'.trans hcfg, hdata'.trans hdata, hclosed'.trans hclosed⟩
  | _ => exact ⟨rfl, rfl, rfl⟩

/-- The bus slots change by `ien` and `idi` alone (R164). -/
theorem CoreStep.buses (h : CoreStep s t) : t.buses = s.buses ∨
    (s.phase = .running ∧ fetch s = .ok .ien ∧ t.buses = (enableSelected s).buses) ∨
    (s.phase = .running ∧ fetch s = .ok .idi ∧ t.buses = (disableAll s).buses) := by
  cases h with
  | outside _ hu =>
    obtain ⟨-, -, -, -, hbuses, -⟩ := hu.frame
    exact .inl hbuses
  | executed hphase hu hfetch heffect =>
    obtain ⟨-, -, -, -, hbuses, -⟩ := hu.frame
    rcases heffect.buses with heq | ⟨rfl, heq⟩ | ⟨rfl, heq⟩
    · exact .inl (heq.trans hbuses)
    · rw [enableSelected_buses, hbuses] at heq
      exact .inr (.inl ⟨hphase, hfetch, heq⟩)
    · rw [disableAll_buses, hbuses] at heq
      exact .inr (.inr ⟨hphase, hfetch, heq⟩)
  | _ => exact .inl rfl

/-- The permission changes by an authorised incept alone (R28, R203). -/
theorem CoreStep.permission (h : CoreStep s t) : t.permission = s.permission ∨
    (s.phase = .awaitingInception ∧ ∃ errors, InceptGrants s errors t.permission) := by
  cases h with
  | started hphase hm hauth herrors =>
    obtain ⟨hb, hincept⟩ := mem_inceptOffers.mp hm
    exact .inr ⟨hphase, _, _, _, hb, hincept, herrors, hauth, rfl⟩
  | failed taken hphase hm hauth herrors =>
    obtain ⟨hb, hincept⟩ := mem_inceptOffers.mp hm
    exact .inr ⟨hphase, _, _, _, hb, hincept, herrors, hauth, rfl⟩
  | outside _ hu =>
    obtain ⟨-, -, hpermission, -⟩ := hu.frame
    exact .inl hpermission
  | executed _ hu _ heffect =>
    obtain ⟨-, -, hpermission, -⟩ := hu.frame
    obtain ⟨-, hpermission', -⟩ := heffect.frame
    exact .inl (hpermission'.trans hpermission)
  | _ => exact .inl rfl

/-- The core's transitions (R201). -/
theorem CoreStep.phase (h : CoreStep s t) :
    (t.phase = s.phase ∧ s.phase ≠ .loading) ∨
    (s.phase = .awaitingInception ∧ t.phase = .running ∧ InceptGrants s false t.permission) ∨
    (s.phase = .awaitingInception ∧ t.phase = .faulted .streamReadFailure s.pc ∧
      InceptGrants s true t.permission) ∨
    (s.phase = .awaitingInception ∧ t.phase = .faulted .channelClosed s.pc ∧
      s.closed.incept = true) ∨
    (s.phase = .running ∧ t.phase = .awaitingInception ∧
      ∃ b m, b < s.nbus ∧ (linkAt s b).kill = some m ∧
        authKill s.cfg m.permission s.permission = true) ∨
    (s.phase = .running ∧ ∃ c, t.phase = .faulted c s.pc) := by
  cases h with
  | wait hphase => exact .inl ⟨rfl, by simp [hphase]⟩
  | rejected hphase => exact .inl ⟨rfl, by simp [hphase]⟩
  | stopped hphase => exact .inl ⟨rfl, by simp [hphase]⟩
  | started hphase hm hauth herrors =>
    obtain ⟨hb, hincept⟩ := mem_inceptOffers.mp hm
    exact .inr (.inl ⟨hphase, rfl, _, _, hb, hincept, herrors, hauth, rfl⟩)
  | failed taken hphase hm hauth herrors =>
    obtain ⟨hb, hincept⟩ := mem_inceptOffers.mp hm
    exact .inr (.inr (.inl ⟨hphase, rfl, _, _, hb, hincept, herrors, hauth, rfl⟩))
  | inceptClosed hphase hclosed => exact .inr (.inr (.inr (.inl ⟨hphase, rfl, hclosed⟩)))
  | killed hphase hm hauth =>
    obtain ⟨hb, hkill⟩ := mem_killOffers.mp hm
    exact .inr (.inr (.inr (.inr (.inl ⟨hphase, rfl, _, _, hb, hkill, hauth⟩))))
  | outside hphase hu =>
    refine .inr (.inr (.inr (.inr (.inr ⟨hphase, .fetchOutOfRange, ?_⟩))))
    rw [takeFault_phase, hu.pc_program.1]
  | executed hphase hu hfetch heffect =>
    obtain ⟨-, hphase', -⟩ := hu.frame
    rcases heffect.fault_or_keeps_phase with ⟨hkeeps, -, -⟩ | ⟨e, -, rfl⟩
    · exact .inl ⟨hkeeps.trans hphase', by simp [hphase]⟩
    · refine .inr (.inr (.inr (.inr (.inr ⟨hphase, e.kind, ?_⟩))))
      rw [takeFault_phase, hu.pc_program.1]

/-! ## Where the core accepts an offer (R175) -/

/-- A changed link leaves every other link as it was. -/
theorem linkAt_updateLink_cases (s : State) (c b : Nat) (f : Link → Link) :
    linkAt (updateLink c f s) b = linkAt s b ∨
      (b = c ∧ linkAt (updateLink c f s) b = f (linkAt s b)) := by
  rw [linkAt_updateLink]
  split
  case isTrue h => exact .inr ⟨h.1, rfl⟩
  case isFalse => exact .inl rfl

theorem linkAt_acceptIncept_cases (s : State) (c b : Nat) :
    linkAt (acceptIncept c s) b = linkAt s b ∨
      (b = c ∧ linkAt (acceptIncept c s) b = { linkAt s b with incept := none }) :=
  linkAt_updateLink_cases s c b _

theorem linkAt_acceptKill_cases (s : State) (c b : Nat) :
    linkAt (acceptKill c s) b = linkAt s b ∨
      (b = c ∧ linkAt (acceptKill c s) b = { linkAt s b with kill := none }) :=
  linkAt_updateLink_cases s c b _

theorem linkAt_acceptSend_cases (s : State) (c b : Nat) :
    linkAt (acceptSend c s) b = linkAt s b ∨
      (b = c ∧ linkAt (acceptSend c s) b = { linkAt s b with send := none }) :=
  linkAt_updateLink_cases s c b _

theorem Polled.busEnabled_eq (h : Polled s u) (b : Nat) :
    busEnabled u b = busEnabled s b := by
  cases h <;> rfl

/-- Link `b`'s offers after a turn of the core are `l`, and what was accepted was accepted at a point
that R175 lists. -/
def AcceptedWhereListed (s : State) (b : Nat) (l : Link) : Prop :=
  l.stream = (linkAt s b).stream ∧
  (l.incept = (linkAt s b).incept ∨ (s.phase = .awaitingInception ∧ l.incept = none)) ∧
  (l.kill = (linkAt s b).kill ∨ (s.phase = .running ∧ l.kill = none)) ∧
  (l.send = (linkAt s b).send ∨
    (s.phase = .running ∧ busEnabled s b = true ∧ fetch s = .ok .recv ∧ l.send = none))

theorem acceptedWhereListed_self (s : State) (b : Nat) :
    AcceptedWhereListed s b (linkAt s b) := ⟨rfl, .inl rfl, .inl rfl, .inl rfl⟩

/-- An incept is accepted in AwaitingInception. -/
theorem acceptedWhereListed_acceptIncept (hphase : s.phase = .awaitingInception) (c b : Nat) :
    AcceptedWhereListed s b (linkAt (acceptIncept c s) b) := by
  rcases linkAt_acceptIncept_cases s c b with h | ⟨-, h⟩ <;> rw [h]
  · exact acceptedWhereListed_self s b
  · exact ⟨rfl, .inr ⟨hphase, rfl⟩, .inl rfl, .inl rfl⟩

/-- A kill is accepted while Running, by the poll. -/
theorem acceptedWhereListed_acceptKill (hphase : s.phase = .running) (c b : Nat) :
    AcceptedWhereListed s b (linkAt (acceptKill c s) b) := by
  rcases linkAt_acceptKill_cases s c b with h | ⟨-, h⟩ <;> rw [h]
  · exact acceptedWhereListed_self s b
  · exact ⟨rfl, .inl rfl, .inr ⟨hphase, rfl⟩, .inl rfl⟩

theorem Polled.acceptedWhereListed (h : Polled s u) (hphase : s.phase = .running) (b : Nat) :
    AcceptedWhereListed s b (linkAt u b) := by
  cases h with
  | noKill => exact acceptedWhereListed_self s b
  | consumed _ => exact acceptedWhereListed_acceptKill hphase _ b

/-- A `send` is accepted by `recv` from an enabled bus, whatever kill the poll took before it. -/
theorem Polled.acceptedWhereListed_acceptSend (h : Polled s u) (hphase : s.phase = .running)
    (hfetch : fetch s = .ok .recv) {c : Nat} {m : Com Int} (hm : (c, m) ∈ acceptableSends u)
    (b : Nat) : AcceptedWhereListed s b (linkAt (acceptSend c u) b) := by
  have hpolled := h.acceptedWhereListed hphase b
  obtain ⟨-, henabled, -⟩ := mem_acceptableSends.mp hm
  rcases linkAt_acceptSend_cases u c b with heq | ⟨rfl, heq⟩ <;> rw [heq]
  · exact hpolled
  · obtain ⟨hstream, hincept, hkill, -⟩ := hpolled
    exact ⟨hstream, hincept, hkill, .inr ⟨hphase, h.busEnabled_eq b ▸ henabled, hfetch, rfl⟩⟩

theorem CoreStep.acceptedWhereListed (h : CoreStep s t) (b : Nat) :
    AcceptedWhereListed s b (linkAt t b) := by
  cases h with
  | wait | inceptClosed | stopped => exact acceptedWhereListed_self s b
  | rejected hphase | started hphase | failed _ hphase =>
    exact acceptedWhereListed_acceptIncept hphase _ b
  | killed hphase => exact acceptedWhereListed_acceptKill hphase _ b
  | outside hphase hu => exact hu.acceptedWhereListed hphase b
  | executed hphase hu hfetch heffect =>
    rcases heffect.links with heq | ⟨c, m, rfl, hm, heq⟩ <;> rw [linkAt_congr heq]
    · exact hu.acceptedWhereListed hphase b
    · exact hu.acceptedWhereListed_acceptSend hphase hfetch hm b

end

/-- Settles O38: `AcceptedWhereListed` of every link. -/
theorem coreAcceptsOffersOnlyWhereListed : Obligations.CoreAcceptsOffersOnlyWhereListed := by
  unfold Obligations.CoreAcceptsOffersOnlyWhereListed
  intro s t hcore hstep b
  exact (coreStep_of_step hcore hstep).acceptedWhereListed b

/-- Settles O39: the two instructions that write the bus slots, slot by slot. -/
theorem maskChangesOnlyByIenAndIdi : Obligations.MaskChangesOnlyByIenAndIdi := by
  unfold Obligations.MaskChangesOnlyByIenAndIdi
  intro s t hcore hstep
  rcases (coreStep_of_step hcore hstep).buses with
    heq | ⟨hphase, hfetch, heq⟩ | ⟨hphase, hfetch, heq⟩
  · exact .inl heq
  · refine .inr (.inl ⟨hphase, hfetch, by simp [heq], fun b slot h => ?_⟩)
    exact heq ▸ enableSelected_getElem? (s := spendTurn s) h
  · refine .inr (.inr ⟨hphase, hfetch, by simp [heq], fun b slot h => ?_⟩)
    exact heq ▸ disableAll_getElem? (s := spendTurn s) h

/-- A cycle answers a next state whatever the poll and the fetch find. -/
theorem runInstruction_answers (s : State) : ∃ t, runInstruction s = .next t := by
  rcases fetch_cases s with ⟨op, hpc, hop, -⟩ | ⟨houtside, -⟩
  · rw [runInstruction_of_byte hpc hop]
    exact everyInstructionAnswersANextState (decodeByte op) s
  · exact ⟨_, runInstruction_of_outside houtside⟩

theorem cycle_answers (s : State) : ∃ t, cycle s = .next t := by
  rcases killPoll_cases s with ⟨-, hpoll⟩ | ⟨b, m, -, -, hpoll⟩ | ⟨b, m, -, -, hpoll⟩
  · rw [cycle_of_proceed hpoll]
    exact runInstruction_answers s
  · exact ⟨_, cycle_of_honoured hpoll⟩
  · rw [cycle_of_proceed hpoll]
    exact runInstruction_answers (acceptKill b s)

/-- Settles O43: the one turn without an answer begins in Loading, which the invariant excludes. -/
theorem coreTurnAlwaysAnswers : Obligations.CoreTurnAlwaysAnswers := by
  unfold Obligations.CoreTurnAlwaysAnswers
  intro s hinv hcore
  rw [step_of_coreMovesNext hcore]
  rcases coreTurn_cases (spendTurn s) with
    ⟨-, hturn⟩ | ⟨hphase, -⟩ | ⟨-, hturn⟩ | ⟨c, p, -, hturn⟩
  · exact ⟨_, hturn⟩
  · exact absurd hphase hinv.notLoading
  · rw [hturn]
    exact cycle_answers (spendTurn s)
  · exact ⟨_, hturn⟩

end Sys2Proof.Machine
end

section
/-! The core's half of the invariant's proof (R20, R37): every `CoreStep` keeps `Inv`. -/

namespace Sys2Proof.Machine

/-! ## Links -/

/-- What the invariant asks of the offers of link `b` (R35, R171, R173, R188). -/
structure LinkLegal (x : XLen) (closed : Closed) (b : Nat) (l : Link) : Prop where
  tagged : Link.Tagged b l
  sendWord : ∀ m, l.send = some m → x.holds m.data
  closedEmpty : ∀ k, closed.get k = true → l.emptyOf k = true

theorem Inv.linkLegal {s : State} (h : Inv s) (b : Nat) :
    LinkLegal s.cfg.xlen s.closed b (linkAt s b) :=
  ⟨h.offersTagged b, h.sendWords b, fun k => h.closedEmpty k b⟩

section
variable {x : XLen} {closed : Closed} {b : Nat} {l : Link} (h : LinkLegal x closed b l)
include h

/-! Each slot stays legal when it is emptied, and when a message that carries the link's index is put
into it while its channel is open. -/

theorem LinkLegal.setStream {o : Option (Com (List Byte))} (hbus : ∀ m, o = some m → m.bus = b)
    (hclosed : closed.stream = true → o.isNone = true) :
    LinkLegal x closed b { l with stream := o } where
  tagged := { h.tagged with stream := hbus }
  sendWord := h.sendWord
  closedEmpty k hk := by cases k with
    | stream => exact hclosed hk
    | _ => exact h.closedEmpty _ hk

theorem LinkLegal.setIncept {o : Option (Com InceptPayload)} (hbus : ∀ m, o = some m → m.bus = b)
    (hclosed : closed.incept = true → o.isNone = true) :
    LinkLegal x closed b { l with incept := o } where
  tagged := { h.tagged with incept := hbus }
  sendWord := h.sendWord
  closedEmpty k hk := by cases k with
    | incept => exact hclosed hk
    | _ => exact h.closedEmpty _ hk

theorem LinkLegal.setSend {o : Option (Com Int)} (hbus : ∀ m, o = some m → m.bus = b)
    (hword : ∀ m, o = some m → x.holds m.data) (hclosed : closed.send = true → o.isNone = true) :
    LinkLegal x closed b { l with send := o } where
  tagged := { h.tagged with send := hbus }
  sendWord := hword
  closedEmpty k hk := by cases k with
    | send => exact hclosed hk
    | _ => exact h.closedEmpty _ hk

theorem LinkLegal.setKill {o : Option (Com Unit)} (hbus : ∀ m, o = some m → m.bus = b)
    (hclosed : closed.kill = true → o.isNone = true) :
    LinkLegal x closed b { l with kill := o } where
  tagged := { h.tagged with kill := hbus }
  sendWord := h.sendWord
  closedEmpty k hk := by cases k with
    | kill => exact hclosed hk
    | _ => exact h.closedEmpty _ hk

end

section
variable {s : State} (h : Inv s)
include h

/-- The invariant is kept where one link changes into a legal one; the draw counter is free. -/
theorem Inv.updateLink {c : Nat} {put : Link → Link} (draws : Nat)
    (hput : LinkLegal s.cfg.xlen s.closed c (put (linkAt s c))) :
    Inv { s with links := (updateLink c put s).links, draws := draws } := by
  have hlegal (b : Nat) : LinkLegal s.cfg.xlen s.closed b (linkAt (Machine.updateLink c put s) b) := by
    rcases linkAt_updateLink_cases s c b put with heq | ⟨rfl, heq⟩ <;> rw [heq]
    · exact h.linkLegal b
    · exact hput
  exact { h with
    linksPaired := (List.length_modify ..).trans h.linksPaired
    offersTagged := fun b => (hlegal b).tagged
    sendWords := fun b => (hlegal b).sendWord
    closedEmpty := fun k b => (hlegal b).closedEmpty k }

theorem Inv.acceptIncept (c : Nat) :
    Inv { s with links := (acceptIncept c s).links, draws := s.draws + 1 } :=
  h.updateLink _ ((h.linkLegal c).setIncept (by simp) fun _ => rfl)

theorem Inv.acceptKill (c : Nat) :
    Inv { s with links := (acceptKill c s).links, draws := s.draws + 1 } :=
  h.updateLink _ ((h.linkLegal c).setKill (by simp) fun _ => rfl)

theorem Inv.acceptSend (c : Nat) :
    Inv { s with links := (acceptSend c s).links, draws := s.draws + 1 } :=
  h.updateLink _ ((h.linkLegal c).setSend (by simp) (by simp) fun _ => rfl)

/-- Fault entry records the pc it keeps (R234). -/
theorem Inv.takeFault (e : Raise) : Inv (takeFault e s) :=
  { h with
    runningIff := by simp
    notLoading := by simp
    faultedPc := fun c p hphase => by
      cases hphase
      rfl }

theorem Inv.spendTurn : Inv (spendTurn s) := { h with }

end

/-! ## Instructions -/

/-- Data memory holds Words at every address, the unlisted ones included (R30). -/
theorem Memory.read_holds {x : XLen} {m : Memory} (h : ∀ c ∈ m, x.holds c.2) (a : Nat) :
    x.holds (Memory.read m a) := by
  induction m with
  | nil => exact x.holds_zero
  | cons c rest ih =>
    simp only [Memory.read]
    split
    · exact h c List.mem_cons_self
    · exact ih fun d hd => h d (List.mem_cons_of_mem c hd)

section
variable {s t : State} {i : Instr} (h : Inv s)
include h

/-- An instruction that transforms the top replaces a Word by a Word. -/
theorem Inv.holds_of_transformsTo {rest : List Int} {v r : Int} (hstack : s.dstack = rest ++ [v])
    (hr : TransformsTo s v r) : s.cfg.xlen.holds r := by
  rcases hr with ⟨a, rfl⟩ | rfl
  · exact Memory.read_holds h.dataWords a
  · exact wnot_holds _ (h.dstackWords v (by simp [hstack]))

/-- The data stack with a Word in the place of its top holds Words. -/
theorem Inv.dstackWords_replace {rest : List Int} {v r : Int} (hstack : s.dstack = rest ++ [v])
    (hr : s.cfg.xlen.holds r) : ∀ w ∈ rest ++ [r], s.cfg.xlen.holds w := by
  intro w hw
  rcases List.mem_append.mp hw with hw | hw
  · exact h.dstackWords w (by simp [hstack, hw])
  · rwa [List.mem_singleton.mp hw]

/-- A delivery keeps the conveyor's length and puts Words at its front (R110). -/
theorem Inv.deliver {v w : Int} (hv : s.cfg.xlen.holds v) (hw : s.cfg.xlen.holds w) :
    (v :: w :: s.conveyor.dropLast.dropLast).length = 16 ∧
      ∀ a ∈ v :: w :: s.conveyor.dropLast.dropLast, s.cfg.xlen.holds a := by
  have hlength := h.conveyorLength
  refine ⟨?_, fun a ha => ?_⟩
  · simp only [List.length_cons, List.length_dropLast]
    omega
  · rcases List.mem_cons.mp ha with rfl | ha
    · exact hv
    rcases List.mem_cons.mp ha with rfl | ha
    · exact hw
    exact h.conveyorWords a (List.mem_of_mem_dropLast (List.mem_of_mem_dropLast ha))

/-- Every effect of an instruction of a Running core keeps the invariant. -/
theorem Inv.effect (hphase : s.phase = .running) (heffect : Effect s i t) : Inv t := by
  have hnoFault : ∀ (pc : Int) c p, s.phase = .faulted c p → p = pc := by simp [hphase]
  cases heffect with
  | fault _ => exact h.takeFault _
  | wait => exact h
  | pcOnly | flagsOnly =>
    exact { h with pcWord := wadd_holds _ _ _, faultedPc := hnoFault _ }
  | topOnly _ hstack hr =>
    exact { h with
      pcWord := wadd_holds _ _ _
      faultedPc := hnoFault _
      dstackWords := h.dstackWords_replace hstack (h.holds_of_transformsTo hstack hr) }
  | topAndFlags _ _ hstack hr =>
    exact { h with
      pcWord := wadd_holds _ _ _
      faultedPc := hnoFault _
      dstackWords := h.dstackWords_replace hstack hr }
  | @restore rest fr hframes =>
    have hmem : fr ∈ s.cstack := by simp [hframes]
    exact { h with
      pcWord := wadd_holds _ _ _
      faultedPc := hnoFault _
      dcsWords := (h.cstackWords fr hmem).2
      cstackWords := fun g hg => h.cstackWords g (by simp [hframes, hg]) }
  | enable | disable =>
    exact { h with
      pcWord := wadd_holds _ _ _
      faultedPc := hnoFault _
      linksPaired := by simpa using h.linksPaired }
  | @accept b m hm =>
    obtain ⟨-, -, hsend⟩ := mem_acceptableSends.mp hm
    obtain ⟨hlength, hwords⟩ := h.deliver (h.sendWords b m hsend) (wrap_holds _ b)
    exact { h.acceptSend b with
      pcWord := wadd_holds _ _ _
      faultedPc := hnoFault _
      conveyorLength := hlength
      conveyorWords := hwords }

end

/-! ## Kill and inception -/

/-- The integers of an execution context are Words. -/
structure ContextHolds (x : XLen) (c : Context) : Prop where
  pc : x.holds c.pc
  dcs : countersHold x c.dcs
  dstack : ∀ v ∈ c.dstack, x.holds v
  cstack : ∀ fr ∈ c.cstack, x.holds fr.pc ∧ countersHold x fr.dcs

theorem wrapCounters_hold (x : XLen) (d : DataCounters) : countersHold x (wrapCounters x d) :=
  ⟨wrap_holds x _, wrap_holds x _, wrap_holds x _, wrap_holds x _⟩

/-- The context that takes the place of a killed program's is one of Words, in either mode (R206, R207). -/
theorem discardedContext_holds (s : State) : ContextHolds s.cfg.xlen (discardedContext s) := by
  have hzero := s.cfg.xlen.holds_zero
  unfold discardedContext
  split
  · exact ⟨hzero, ⟨hzero, hzero, hzero, hzero⟩, by simp [clearedContext], by simp [clearedContext]⟩
  · refine ⟨wrap_holds _ _, wrapCounters_hold _ _, fun v hv => ?_, fun fr hfr => ?_⟩
    · obtain ⟨w, -, rfl⟩ := List.mem_map.mp hv
      exact wrap_holds _ w
    · obtain ⟨g, -, rfl⟩ := List.mem_map.mp hfr
      exact ⟨wrap_holds _ g.pc, wrapCounters_hold _ g.dcs⟩

section
variable {s t u : State} (h : Inv s)
include h

theorem Inv.honourKill : Inv (honourKill s) :=
  have hcontext := discardedContext_holds s
  { h with
    pcWord := hcontext.pc
    dcsWords := hcontext.dcs
    dstackWords := hcontext.dstack
    cstackWords := hcontext.cstack
    runningIff := by simp
    notLoading := by simp
    faultedPc := by simp }

theorem Inv.polled (hu : Polled s u) : Inv u := by
  cases hu with
  | noKill => exact h
  | consumed _ => exact h.acceptKill _

/-- Every turn of the core keeps the invariant. -/
theorem Inv.coreStep (hstep : CoreStep s t) : Inv t := by
  cases hstep with
  | wait | stopped => exact h
  | inceptClosed => exact h.takeFault _
  | @rejected b => exact h.acceptIncept b
  | @started b =>
    exact { h.acceptIncept b with
      pcWord := s.cfg.xlen.holds_zero
      runningIff := by simp
      notLoading := by simp
      faultedPc := by simp }
  | @failed b =>
    exact { h.acceptIncept b with
      runningIff := by simp
      notLoading := by simp
      faultedPc := fun c p hphase => by
        cases hphase
        rfl }
  | @killed b => exact Inv.honourKill (h.acceptKill b)
  | outside _ hu => exact (h.polled hu).takeFault _
  | executed hphase hu _ heffect =>
    obtain ⟨-, hphase', -⟩ := hu.frame
    exact (h.polled hu).effect (hphase'.trans hphase) heffect

end

end Sys2Proof.Machine
end

section
/-! Proofs about the environment's moves, construction and reset (R174, R188, R250 to R256), and with them
the rules that hold whoever moves. `EnvStep` says once what a move can leave. -/

namespace Sys2Proof.Machine

/-! ## What a move of the environment can leave -/

/-- What the owner's preload of `p` leaves, and where it is admitted (R254; log entry 14). -/
inductive Preloaded (s : State) : Preload → State → Prop
  | data {a : Nat} {v : Int} : a < s.cfg.memSize → s.cfg.xlen.holds v →
      Preloaded s (.data a v) { s with data := s.data.write a v }
  | dstack {vs : List Int} : (∀ v ∈ vs, s.cfg.xlen.holds v) →
      Preloaded s (.dstack vs) { s with dstack := vs }
  | cstack {fs : List Frame} :
      (∀ fr ∈ fs, s.cfg.xlen.holds fr.pc ∧ countersHold s.cfg.xlen fr.dcs) →
      Preloaded s (.cstack fs) { s with cstack := fs }
  | dc {k : Fin 4} {v : Int} : s.cfg.xlen.holds v →
      Preloaded s (.dc k v) { s with dcs := s.dcs.set k v }
  | carry (v : Bool) : Preloaded s (.carry v) { s with carry := v }
  | overflow (v : Bool) : Preloaded s (.overflow v) { s with overflow := v }
  | interrupt (v : Bool) : Preloaded s (.interrupt v) { s with interrupt := v }
  | conveyor {i : Nat} {v : Int} : i < 16 → s.cfg.xlen.holds v →
      Preloaded s (.conveyor i v) { s with conveyor := s.conveyor.set i v }
  | selected {b : Nat} (v : Bool) : b < s.nbus →
      Preloaded s (.selected b v)
        { s with buses := s.buses.modify b fun slot => { slot with selected := v } }
  | enabled {b : Nat} (v : Bool) : b < s.nbus →
      Preloaded s (.enabled b v)
        { s with buses := s.buses.modify b fun slot => { slot with enabled := v } }

theorem preloaded_of_preload {s t : State} {p : Preload} (h : preload p s = some t) :
    Preloaded s p t := by
  cases p with
  | data a v =>
    obtain ⟨hguard, rfl⟩ := allowed_eq_some_iff.mp h
    obtain ⟨ha, hv⟩ := Bool.and_eq_true_iff.mp hguard
    exact .data (of_decide_eq_true ha) (of_decide_eq_true hv)
  | dstack vs =>
    obtain ⟨hguard, rfl⟩ := allowed_eq_some_iff.mp h
    exact .dstack fun v hv => of_decide_eq_true (List.all_eq_true.mp hguard v hv)
  | cstack fs =>
    obtain ⟨hguard, rfl⟩ := allowed_eq_some_iff.mp h
    exact .cstack fun fr hfr => of_decide_eq_true (List.all_eq_true.mp hguard fr hfr)
  | dc k v =>
    obtain ⟨hguard, rfl⟩ := allowed_eq_some_iff.mp h
    exact .dc (of_decide_eq_true hguard)
  | carry v => exact Option.some.inj h ▸ .carry v
  | overflow v => exact Option.some.inj h ▸ .overflow v
  | interrupt v => exact Option.some.inj h ▸ .interrupt v
  | conveyor i v =>
    obtain ⟨hguard, rfl⟩ := allowed_eq_some_iff.mp h
    obtain ⟨hi, hv⟩ := Bool.and_eq_true_iff.mp hguard
    exact .conveyor (of_decide_eq_true hi) (of_decide_eq_true hv)
  | selected b v =>
    obtain ⟨hguard, rfl⟩ := allowed_eq_some_iff.mp h
    exact .selected v (of_decide_eq_true hguard)
  | enabled b v =>
    obtain ⟨hguard, rfl⟩ := allowed_eq_some_iff.mp h
    exact .enabled v (of_decide_eq_true hguard)

theorem preload_of_preloaded {s t : State} {p : Preload} (h : Preloaded s p t) :
    preload p s = some t := by
  cases h with
  | data ha hv =>
    exact allowed_eq_some_iff.mpr
      ⟨Bool.and_eq_true_iff.mpr ⟨decide_eq_true ha, decide_eq_true hv⟩, rfl⟩
  | dstack hvs =>
    exact allowed_eq_some_iff.mpr
      ⟨List.all_eq_true.mpr fun v hv => decide_eq_true (hvs v hv), rfl⟩
  | cstack hfs =>
    exact allowed_eq_some_iff.mpr
      ⟨List.all_eq_true.mpr fun fr hfr => decide_eq_true (hfs fr hfr), rfl⟩
  | dc hv => exact allowed_eq_some_iff.mpr ⟨decide_eq_true hv, rfl⟩
  | carry | overflow | interrupt => rfl
  | conveyor hi hv =>
    exact allowed_eq_some_iff.mpr
      ⟨Bool.and_eq_true_iff.mpr ⟨decide_eq_true hi, decide_eq_true hv⟩, rfl⟩
  | selected _ hb => exact allowed_eq_some_iff.mpr ⟨decide_eq_true hb, rfl⟩
  | enabled _ hb => exact allowed_eq_some_iff.mpr ⟨decide_eq_true hb, rfl⟩

/-- The owner preloads a core that is not Running (R254, R256). -/
theorem environmentMove_preload_eq_some_iff {s t : State} {p : Preload} :
    environmentMove (.preload p) s = some t ↔ s.phase ≠ .running ∧ Preloaded s p t := by
  by_cases hphase : s.phase = .running
  · rw [environmentMove, if_pos hphase]
    exact ⟨fun h => (by cases h), fun h => absurd hphase h.1⟩
  · rw [environmentMove, if_neg hphase]
    exact ⟨fun h => ⟨hphase, preloaded_of_preload h⟩, fun h => preload_of_preloaded h.2⟩

/-- The next states of a move of the environment (R256). An offer puts on its link what is legal there. -/
inductive EnvStep (s : State) : EnvMove → State → Prop
  | offered {m : EnvMove} {b : Nat} {put : Link → Link} :
      (LinkLegal s.cfg.xlen s.closed b (linkAt s b) →
        LinkLegal s.cfg.xlen s.closed b (put (linkAt s b))) →
      EnvStep s m { s with links := (updateLink b put s).links }
  | closed {k : ChannelKind} : (∀ l ∈ s.links, l.emptyOf k = true) →
      EnvStep s (.close k) { s with closed := s.closed.indicate k }
  | preloaded {p : Preload} {t : State} : s.phase ≠ .running → Preloaded s p t →
      EnvStep s (.preload p) t
  | observed : EnvStep s .observe s
  | reset : EnvStep s .ownerReset (ownerReset s)

theorem envStep_of_environmentMove {s t : State} {m : EnvMove} (h : environmentMove m s = some t) :
    EnvStep s m t := by
  cases m with
  | offerStream b stamp bytes =>
    obtain ⟨-, -, hopen, rfl⟩ := offer_eq_some_iff.mp h
    exact .offered fun hl => hl.setStream (by rintro _ ⟨⟩; rfl) (by simp [hopen])
  | offerIncept b stamp target source =>
    obtain ⟨-, -, hopen, rfl⟩ := offer_eq_some_iff.mp h
    exact .offered fun hl => hl.setIncept (by rintro _ ⟨⟩; rfl) (by simp [hopen])
  | offerSend b stamp value =>
    by_cases hword : s.cfg.xlen.holds value
    · rw [environmentMove, if_pos hword] at h
      obtain ⟨-, -, hopen, rfl⟩ := offer_eq_some_iff.mp h
      exact .offered fun hl =>
        hl.setSend (by rintro _ ⟨⟩; rfl) (by rintro _ ⟨⟩; exact hword) (by simp [hopen])
    · rw [environmentMove, if_neg hword] at h
      cases h
  | offerKill b stamp =>
    obtain ⟨-, -, hopen, rfl⟩ := offer_eq_some_iff.mp h
    exact .offered fun hl => hl.setKill (by rintro _ ⟨⟩; rfl) (by simp [hopen])
  | close k =>
    obtain ⟨hempty, rfl⟩ := allowed_eq_some_iff.mp h
    exact .closed (List.all_eq_true.mp hempty)
  | preload p =>
    obtain ⟨hphase, hp⟩ := environmentMove_preload_eq_some_iff.mp h
    exact .preloaded hphase hp
  | observe =>
    obtain ⟨-, rfl⟩ := allowed_eq_some_iff.mp h
    exact .observed
  | ownerReset => exact Option.some.inj h ▸ .reset

theorem environmentTurn_of_none {s : State} {m : EnvMove} (h : environmentMove m s = none) :
    environmentTurn m s = .refused .outsideOwnerTable := by
  simp only [environmentTurn, h]

/-- The environment's turn is its move, where it has one. -/
theorem environmentTurn_eq_next_iff {s t : State} {m : EnvMove} :
    environmentTurn m s = .next t ↔ environmentMove m s = some t := by
  unfold environmentTurn
  cases environmentMove m s <;> simp

/-- Every next state is left by a turn of the core or by a move of the environment (R264). -/
theorem step_next_cases {s t : State} (h : step s = .next t) :
    (coreMovesNext s = true ∧ CoreStep (spendTurn s) t) ∨
    (coreMovesNext s = false ∧ ∃ m, s.schedule.head? = some (.environment m) ∧
      EnvStep (spendTurn s) m t) := by
  rcases step_cases s with ⟨hcore, -⟩ | ⟨m, rest, hschedule, hstep⟩
  · exact .inl ⟨hcore, coreStep_of_step hcore h⟩
  · rw [hstep] at h
    exact .inr ⟨by simp [coreMovesNext, hschedule], m, by simp [hschedule],
      envStep_of_environmentMove (environmentTurn_eq_next_iff.mp h)⟩

/-! ## What the moves keep -/

/-- A preload writes neither pc, program, permission, `running`, phase nor a link (R254). -/
theorem Preloaded.frame {s t : State} {p : Preload} (h : Preloaded s p t) :
    t.pc = s.pc ∧ t.program = s.program ∧ t.permission = s.permission ∧ t.running = s.running ∧
      t.phase = s.phase ∧ t.links = s.links ∧ t.closed = s.closed ∧ t.cfg = s.cfg := by
  cases h <;> exact ⟨rfl, rfl, rfl, rfl, rfl, rfl, rfl, rfl⟩

/-- Changing one element in what `g` does not see leaves what `g` sees. -/
theorem map_modify_of_eq {α β : Type} (l : List α) (b : Nat) {f : α → α} {g : α → β}
    (h : ∀ a, g (f a) = g a) : (l.modify b f).map g = l.map g := by
  refine List.ext_getElem? fun c => ?_
  rw [List.getElem?_map, List.getElem?_map, List.getElem?_modify]
  cases l[c]? with
  | none => rfl
  | some a => by_cases hbc : b = c <;> simp [hbc, h]

theorem Preloaded.senders {s t : State} {p : Preload} (h : Preloaded s p t) :
    t.buses.map (·.sender) = s.buses.map (·.sender) := by
  cases h with
  | selected v hb => exact map_modify_of_eq _ _ fun _ => rfl
  | enabled v hb => exact map_modify_of_eq _ _ fun _ => rfl
  | _ => rfl

/-- Indicating one kind closed withdraws no other indication (R188). -/
theorem Closed.get_indicate (k j : ChannelKind) (c : Closed) :
    (c.indicate k).get j = (decide (j = k) || c.get j) := by
  cases k <;> cases j <;> rfl

section
variable {s t : State} {m : EnvMove} (h : EnvStep s m t)
include h

/-- A move leaves phase and permission alone, or is the owner's Reset (R201, R237). -/
theorem EnvStep.phase_permission :
    (t.phase = s.phase ∧ t.permission = s.permission) ∨
    (m = .ownerReset ∧ t.phase = .awaitingInception) := by
  cases h with
  | reset => exact .inr ⟨rfl, rfl⟩
  | preloaded _ hp =>
    obtain ⟨-, -, hpermission, -, hphase, -⟩ := hp.frame
    exact .inl ⟨hphase, hpermission⟩
  | _ => exact .inl ⟨rfl, rfl⟩

/-- A move leaves data memory alone, or preloads a word of it, or is the owner's Reset (R63). -/
theorem EnvStep.data :
    t.data = s.data ∨ (∃ a v, m = .preload (.data a v)) ∨ m = .ownerReset := by
  cases h with
  | reset => exact .inr (.inr rfl)
  | preloaded _ hp =>
    cases hp with
    | data => exact .inr (.inl ⟨_, _, rfl⟩)
    | _ => exact .inl rfl
  | _ => exact .inl rfl

/-- No move changes what construction fixes (R36, R185). -/
theorem EnvStep.cfg_senders :
    t.cfg = s.cfg ∧ t.buses.map (·.sender) = s.buses.map (·.sender) := by
  cases h with
  | preloaded _ hp =>
    obtain ⟨-, -, -, -, -, -, -, hcfg⟩ := hp.frame
    exact ⟨hcfg, hp.senders⟩
  | reset => exact ⟨rfl, by simp [ownerReset, State.construct, Function.comp_def]⟩
  | _ => exact ⟨rfl, rfl⟩

/-- No move withdraws a closed indication (R35). -/
theorem EnvStep.closed_stays {k : ChannelKind} (hk : s.closed.get k = true) :
    t.closed.get k = true := by
  cases h with
  | closed => rw [Closed.get_indicate, hk, Bool.or_true]
  | preloaded _ hp =>
    obtain ⟨-, -, -, -, -, -, hclosed, -⟩ := hp.frame
    rwa [hclosed]
  | _ => exact hk

end

/-! ## The rules that hold whoever moves -/

/-- Settles O37: the core's transitions, and the Reset among the environment's moves. -/
theorem phasesChangeOnlyAsTheTableSays : Obligations.PhasesChangeOnlyAsTheTableSays := by
  unfold Obligations.PhasesChangeOnlyAsTheTableSays
  intro s t hstep
  refine ⟨fun hcore => ?core, fun henv => ?environment⟩
  case core => exact (coreStep_of_step hcore hstep).phase
  case environment =>
    rcases step_next_cases hstep with ⟨hcore, -⟩ | ⟨-, m, hhead, h⟩
    · simp [henv] at hcore
    rcases h.phase_permission with ⟨hphase, -⟩ | ⟨rfl, hphase⟩
    · exact .inl hphase
    · exact .inr ⟨hphase, hhead⟩

/-- Settles O40: an authorised incept is the core's only writer, the Reset the environment's. -/
theorem permissionChangesOnlyByInception : Obligations.PermissionChangesOnlyByInception := by
  unfold Obligations.PermissionChangesOnlyByInception
  intro s t hstep
  rcases step_next_cases hstep with ⟨hcore, h⟩ | ⟨-, m, hhead, h⟩
  · rcases h.permission with heq | ⟨hphase, errors, b, m, hb, hincept, -, hauth, hp⟩
    · exact .inl heq
    · exact .inr (.inl ⟨hcore, hphase, b, m, hb, hincept, hauth, hp⟩)
  · rcases h.phase_permission with ⟨-, heq⟩ | ⟨rfl, -⟩
    · exact .inl heq
    · exact .inr (.inr hhead)

/-- Settles O41: the core writes no data memory, and two moves of the owner do. -/
theorem coreNeverWritesDataMemory : Obligations.CoreNeverWritesDataMemory := by
  unfold Obligations.CoreNeverWritesDataMemory
  intro s t hstep
  have hread (heq : t.data = s.data) : t.data = s.data ∧ ∀ a, t.data.read a = s.data.read a :=
    ⟨heq, fun a => by rw [heq]⟩
  refine ⟨fun hcore => ?core, ?anyone⟩
  case core =>
    obtain ⟨-, hdata, -⟩ := (coreStep_of_step hcore hstep).frame
    exact hdata
  case anyone =>
    rcases step_next_cases hstep with ⟨-, h⟩ | ⟨-, m, hhead, h⟩
    · obtain ⟨-, hdata, -⟩ := h.frame
      exact .inl (hread hdata)
    · rcases h.data with hdata | ⟨a, v, rfl⟩ | rfl
      · exact .inl (hread hdata)
      · exact .inr (.inl ⟨a, v, hhead⟩)
      · exact .inr (.inr hhead)

/-- Settles O42: for the core its frame and the two maps over the slots, for the environment its
moves. -/
theorem constructionAndClosureAreStable : Obligations.ConstructionAndClosureAreStable := by
  unfold Obligations.ConstructionAndClosureAreStable
  intro s t hstep
  rcases step_next_cases hstep with ⟨-, h⟩ | ⟨-, m, -, h⟩
  · obtain ⟨hcfg, -, hclosed⟩ := h.frame
    refine ⟨hcfg, ?_, fun k hk => hclosed ▸ hk⟩
    rcases h.buses with heq | ⟨-, -, heq⟩ | ⟨-, -, heq⟩ <;> simp [heq]
  · obtain ⟨hcfg, hsenders⟩ := h.cfg_senders
    exact ⟨hcfg, hsenders, fun k => h.closed_stays⟩

/-! ## Construction and reset -/

/-- A constructed core has nothing on offer, on any link (R38). -/
theorem linkAt_construct (cfg : Params) (wiring : List Nat) (b : Nat) :
    linkAt (State.construct cfg wiring) b = Link.idle := by
  simp only [linkAt, State.construct, List.getElem?_map]
  cases wiring[b]? <;> rfl

theorem linkLegal_idle (x : XLen) (closed : Closed) (b : Nat) : LinkLegal x closed b Link.idle where
  tagged := ⟨by simp [Link.idle], by simp [Link.idle], by simp [Link.idle], by simp [Link.idle]⟩
  sendWord := by simp [Link.idle]
  closedEmpty k _ := by cases k <;> rfl

theorem inv_construct (cfg : Params) (wiring : List Nat) : Inv (State.construct cfg wiring) :=
  have hzero := cfg.xlen.holds_zero
  have hlegal (b : Nat) : LinkLegal cfg.xlen (State.construct cfg wiring).closed b
      (linkAt (State.construct cfg wiring) b) :=
    linkAt_construct cfg wiring b ▸ linkLegal_idle _ _ b
  { pcWord := hzero
    dcsWords := ⟨hzero, hzero, hzero, hzero⟩
    dstackWords := by simp [State.construct]
    cstackWords := by simp [State.construct]
    conveyorLength := rfl
    conveyorWords := fun v hv => List.eq_of_mem_replicate hv ▸ hzero
    linksPaired := by simp [State.construct]
    runningIff := by simp [State.construct]
    notLoading := by simp [State.construct]
    faultedPc := by simp [State.construct]
    dataForm := ⟨List.Pairwise.nil, by simp [State.construct]⟩
    dataBound := by simp [State.construct]
    dataWords := by simp [State.construct]
    offersTagged := fun b => (hlegal b).tagged
    sendWords := fun b => (hlegal b).sendWord
    closedEmpty := fun k b => (hlegal b).closedEmpty k }

/-- Settles O44: the reset state is a construction (log entry 1). -/
theorem constructionMeetsTheInvariant : Obligations.ConstructionMeetsTheInvariant := by
  unfold Obligations.ConstructionMeetsTheInvariant
  exact ⟨inv_construct, inv_construct _ _⟩

/-- Settles O46, item by item of the table of R38. -/
theorem constructionLeavesTheResetValues : Obligations.ConstructionLeavesTheResetValues := by
  unfold Obligations.ConstructionLeavesTheResetValues
  rintro cfg wiring s rfl
  refine ⟨rfl, rfl, Memory.read_nil, rfl, rfl, rfl, fun k => ?counters, rfl, rfl, rfl, rfl, rfl, rfl,
    rfl, ?wiring, ?slots, List.length_map _, linkAt_construct cfg wiring, fun k => ?closed⟩
  case counters => match k with | 0 | 1 | 2 | 3 => rfl
  case wiring => simp [State.construct, Function.comp_def]
  case slots => simp [State.construct]
  case closed => cases k <;> rfl

theorem step_of_environmentMove {s t : State} {m : EnvMove} {rest : List Turn}
    (hschedule : s.schedule = .environment m :: rest)
    (hmove : environmentMove m (spendTurn s) = some t) : step s = .next t := by
  rw [step_of_environment hschedule, environmentTurn_eq_next_iff.mpr hmove]

/-- Settles O47: the Reset is a construction with the old parameters and wiring around the old links. -/
theorem ownerResetKeepsTheLinks : Obligations.OwnerResetKeepsTheLinks := by
  unfold Obligations.OwnerResetKeepsTheLinks
  intro s rest hschedule
  refine ⟨ownerReset (spendTurn s), step_of_environmentMove hschedule rfl, rfl, rfl, rfl,
    fun k => ?counters, rfl, rfl, rfl, rfl, rfl, rfl, rfl, rfl, rfl, ?wiring, ?slots, rfl, rfl, rfl,
    ?schedule⟩
  case counters => match k with | 0 | 1 | 2 | 3 => rfl
  case wiring => exact (EnvStep.reset (s := spendTurn s)).cfg_senders.2
  case slots => simp [ownerReset, State.construct]
  case schedule => exact congrArg List.tail hschedule

/-! ## The owner's preload (R254) -/

section
variable {s t : State} {p : Preload} {rest : List Turn}
  (hschedule : s.schedule = .environment (.preload p) :: rest)
include hschedule

/-- The turn of a preload answers what the preload leaves of the state whose turn is spent. -/
theorem step_preload_eq_next_iff :
    step s = .next t ↔ s.phase ≠ .running ∧ Preloaded { s with schedule := rest } p t := by
  have hspent : spendTurn s = { s with schedule := rest } := by
    rw [spendTurn, hschedule, List.tail_cons]
  rw [step_of_environment hschedule, environmentTurn_eq_next_iff,
    environmentMove_preload_eq_some_iff, hspent]

theorem step_of_preloaded (hphase : s.phase ≠ .running)
    (h : Preloaded { s with schedule := rest } p t) : step s = .next t :=
  (step_preload_eq_next_iff hschedule).mpr ⟨hphase, h⟩

end

/-- Settles O48: a Running core's preload has no state, and any other keeps the frame. -/
theorem preloadOnlyWhileNotRunning : Obligations.PreloadOnlyWhileNotRunning := by
  unfold Obligations.PreloadOnlyWhileNotRunning
  intro s p rest hschedule
  refine ⟨fun hrunning => ?refused, fun t hstep => ?frame⟩
  case refused =>
    rw [step_of_environment hschedule]
    exact environmentTurn_of_none (if_pos hrunning)
  case frame =>
    obtain ⟨hphase, hp⟩ := (step_preload_eq_next_iff hschedule).mp hstep
    exact ⟨hphase, hp.frame⟩

/-- Settles O49: the write's own two laws. -/
theorem preloadedDataIsReadBack : Obligations.PreloadedDataIsReadBack := by
  unfold Obligations.PreloadedDataIsReadBack
  intro s a v rest hschedule hphase ha hv hwf
  exact ⟨_, step_of_preloaded hschedule hphase (.data ha hv), rfl,
    Memory.read_write_same hwf a v, fun b => Memory.read_write_other a b v⟩

/-- A counter reads back what was set, and the others read as before. -/
theorem DataCounters.get_set (d : DataCounters) (k j : Fin 4) (v : Int) :
    (d.set k v).get j = if j = k then v else d.get j := by
  match k, j with
  | 0, 0 | 0, 1 | 0, 2 | 0, 3 | 1, 0 | 1, 1 | 1, 2 | 1, 3 | 2, 0 | 2, 1 | 2, 2 | 2, 3
  | 3, 0 | 3, 1 | 3, 2 | 3, 3 => rfl

/-- Changing one bus slot leaves every other, and changes an existing one. -/
theorem getElem?_modify_slot {l : List BusSlot} {b : Nat} {slot : BusSlot} (f : BusSlot → BusSlot)
    (h : l[b]? = some slot) :
    (l.modify b f)[b]? = some (f slot) ∧ ∀ c, c ≠ b → (l.modify b f)[c]? = l[c]? := by
  refine ⟨by rw [List.getElem?_modify_eq, h]; rfl, fun c hc => ?_⟩
  exact List.getElem?_modify_ne _ _ (Ne.symm hc)

/-- Settles O58, preload by preload. -/
theorem preloadWritesTheNamedItem : Obligations.PreloadWritesTheNamedItem := by
  unfold Obligations.PreloadWritesTheNamedItem
  intro s rest hphase
  refine ⟨fun vs hschedule hvs => ?dstack, fun fs hschedule hfs => ?cstack,
    fun k v hschedule hv => ?dc, fun v hschedule => ?carry, fun v hschedule => ?overflow,
    fun v hschedule => ?interrupt, fun i v hschedule hlength hi hv => ?conveyor,
    fun b v slot hschedule hslot => ?selected, fun b v slot hschedule hslot => ?enabled⟩
  case dstack => exact step_of_preloaded hschedule hphase (.dstack hvs)
  case cstack => exact step_of_preloaded hschedule hphase (.cstack hfs)
  case carry => exact step_of_preloaded hschedule hphase (.carry v)
  case overflow => exact step_of_preloaded hschedule hphase (.overflow v)
  case interrupt => exact step_of_preloaded hschedule hphase (.interrupt v)
  case dc =>
    exact ⟨_, step_of_preloaded hschedule hphase (.dc hv), rfl,
      (DataCounters.get_set s.dcs k k v).trans (if_pos rfl),
      fun j hj => (DataCounters.get_set s.dcs k j v).trans (if_neg hj)⟩
  case conveyor =>
    exact ⟨_, step_of_preloaded hschedule hphase (.conveyor hi hv), rfl,
      List.length_set.trans hlength, List.getElem?_set_self (hlength.symm ▸ hi),
      fun j hj => List.getElem?_set_ne (Ne.symm hj)⟩
  case selected =>
    have hb : b < s.nbus := (List.getElem?_eq_some_iff.mp hslot).1
    exact ⟨_, step_of_preloaded hschedule hphase (.selected v hb), rfl, getElem?_modify_slot _ hslot⟩
  case enabled =>
    have hb : b < s.nbus := (List.getElem?_eq_some_iff.mp hslot).1
    exact ⟨_, step_of_preloaded hschedule hphase (.enabled v hb), rfl, getElem?_modify_slot _ hslot⟩

/-! ## The offers of the peers (R174) -/

section
variable {α : Type} {s : State} {m : EnvMove} {rest : List Turn} {b : Nat}
  (slot : Link → Option α) {closed : Bool} {put : Link → Link}
  (hschedule : s.schedule = .environment m :: rest)
  (hmove : environmentMove m (spendTurn s) =
    offer b (fun l => (slot l).isNone) closed put (spendTurn s))
include hschedule hmove

/-- An offer is refused on a link that does not exist, in an occupied slot or on a closed channel. -/
theorem step_of_offer_outside (h : s.nbus ≤ b ∨ slot (linkAt s b) ≠ none ∨ closed = true) :
    step s = .refused .outsideOwnerTable := by
  rw [step_of_environment hschedule]
  refine environmentTurn_of_none (hmove.trans (Option.eq_none_iff_forall_ne_some.mpr fun t ht => ?_))
  obtain ⟨hb, hempty, hopen, -⟩ := offer_eq_some_iff.mp ht
  rcases h with hmissing | hoccupied | hclosed
  · exact absurd hb (Nat.not_lt.mpr hmissing)
  · exact hoccupied (Option.isNone_iff_eq_none.mp hempty)
  · exact Bool.false_ne_true (hopen.symm.trans hclosed)

/-- Everywhere else it is presented, and its link alone changes. -/
theorem step_of_offer_inside (hb : b < s.nbus) (hpaired : s.links.length = s.buses.length)
    (hempty : slot (linkAt s b) = none) (hopen : closed = false) :
    ∃ t, step s = .next t ∧ linkBecomes s t rest b (put (linkAt s b)) := by
  refine ⟨updateLink b put (spendTurn s), ?_, ?_⟩
  · exact step_of_environmentMove hschedule (hmove.trans
      (offer_eq_some_iff.mpr ⟨hb, Option.isNone_iff_eq_none.mpr hempty, hopen, rfl⟩))
  · exact linkBecomes_updateLink put hschedule (hpaired.symm ▸ hb)

end

/-- Settles O50: the move of each kind is `offer` with the kind's own slot, and a `send` first asks for a
Word. -/
theorem offersOnlyInEmptySlots : Obligations.OffersOnlyInEmptySlots := by
  unfold Obligations.OffersOnlyInEmptySlots
  intro s b stamp rest
  refine ⟨fun w hschedule => ⟨fun h => ?sendOutside, fun hb hpaired hempty hopen hword => ?sendInside⟩,
    fun hschedule => ⟨?killOutside, ?killInside⟩,
    fun target source hschedule => ⟨?inceptOutside, ?inceptInside⟩,
    fun bytes hschedule => ⟨?streamOutside, ?streamInside⟩⟩
  case sendOutside =>
    by_cases hword : s.cfg.xlen.holds w
    · refine step_of_offer_outside Link.send hschedule (if_pos hword) ?_
      tauto
    · rw [step_of_environment hschedule]
      exact environmentTurn_of_none (if_neg hword)
  case sendInside =>
    exact step_of_offer_inside Link.send hschedule (if_pos hword) hb hpaired hempty hopen
  case killOutside => exact step_of_offer_outside Link.kill hschedule rfl
  case killInside => exact step_of_offer_inside Link.kill hschedule rfl
  case inceptOutside => exact step_of_offer_outside Link.incept hschedule rfl
  case inceptInside => exact step_of_offer_inside Link.incept hschedule rfl
  case streamOutside => exact step_of_offer_outside Link.stream hschedule rfl
  case streamInside => exact step_of_offer_inside Link.stream hschedule rfl

end Sys2Proof.Machine
end

section
/-! The environment's half of the invariant's proof (R20, R37), and the invariant's step lemma. -/

namespace Sys2Proof.Machine

/-- A link is one of the list, or there is none and nothing is on offer. -/
theorem linkAt_mem_or_idle (s : State) (b : Nat) : linkAt s b ∈ s.links ∨ linkAt s b = Link.idle := by
  unfold linkAt
  cases h : s.links[b]? with
  | none => exact .inr rfl
  | some l => exact .inl (List.mem_of_getElem? h)

theorem countersHold_set {x : XLen} {d : DataCounters} (h : countersHold x d) (k : Fin 4) {v : Int}
    (hv : x.holds v) : countersHold x (d.set k v) := by
  obtain ⟨h0, h1, h2, h3⟩ := h
  match k with
  | 0 => exact ⟨hv, h1, h2, h3⟩
  | 1 => exact ⟨h0, hv, h2, h3⟩
  | 2 => exact ⟨h0, h1, hv, h3⟩
  | 3 => exact ⟨h0, h1, h2, hv⟩

section
variable {s t : State} (h : Inv s)
include h

/-- A channel is indicated closed only where no offer of its kind is pending (R188). -/
theorem Inv.indicateClosed {k : ChannelKind} (hempty : ∀ l ∈ s.links, l.emptyOf k = true) :
    Inv { s with closed := s.closed.indicate k } :=
  { h with
    closedEmpty := fun j b hj => by
      rw [Closed.get_indicate, Bool.or_eq_true, decide_eq_true_iff] at hj
      rcases hj with rfl | hj
      · change (linkAt s b).emptyOf j = true
        rcases linkAt_mem_or_idle s b with hmem | hidle
        · exact hempty _ hmem
        · rw [hidle]
          cases j <;> rfl
      · exact h.closedEmpty j b hj }

/-- A preload puts Words in the place of Words and keeps every length (R254). -/
theorem Inv.preloaded {p : Preload} (hp : Preloaded s p t) : Inv t := by
  cases hp with
  | @data a v ha hv =>
    exact { h with
      dataForm := Memory.write_wf h.dataForm a v
      dataBound := fun c hc => by
        rcases Memory.mem_write hc with hc | ⟨rfl, -⟩
        · exact h.dataBound c hc
        · exact ha
      dataWords := fun c hc => by
        rcases Memory.mem_write hc with hc | ⟨rfl, -⟩
        · exact h.dataWords c hc
        · exact hv }
  | dstack hvs => exact { h with dstackWords := hvs }
  | cstack hfs => exact { h with cstackWords := hfs }
  | dc hv => exact { h with dcsWords := countersHold_set h.dcsWords _ hv }
  | carry | overflow | interrupt => exact { h with }
  | conveyor _ hv =>
    exact { h with
      conveyorLength := List.length_set.trans h.conveyorLength
      conveyorWords := fun w hw => by
        rcases List.mem_or_eq_of_mem_set hw with hw | rfl
        · exact h.conveyorWords w hw
        · exact hv }
  | selected | enabled =>
    exact { h with linksPaired := h.linksPaired.trans (List.length_modify ..).symm }

/-- The owner's Reset is a construction around links that stay legal (R250). -/
theorem Inv.ownerReset : Inv (ownerReset s) :=
  { inv_construct s.cfg (s.buses.map (·.sender)) with
    linksPaired := by simpa [Machine.ownerReset, State.construct] using h.linksPaired
    offersTagged := h.offersTagged
    sendWords := h.sendWords
    closedEmpty := h.closedEmpty }

theorem Inv.envStep {m : EnvMove} (hstep : EnvStep s m t) : Inv t := by
  cases hstep with
  | offered hput => exact h.updateLink s.draws (hput (h.linkLegal _))
  | closed hempty => exact h.indicateClosed hempty
  | preloaded _ hp => exact h.preloaded hp
  | observed => exact h
  | reset => exact h.ownerReset

end

/-- Settles O45: every `CoreStep` and every `EnvStep` keeps the invariant. -/
theorem stepKeepsTheInvariant : Obligations.StepKeepsTheInvariant := by
  unfold Obligations.StepKeepsTheInvariant
  intro s t h hstep
  rcases step_next_cases hstep with ⟨-, hcore⟩ | ⟨-, m, -, henv⟩
  · exact h.spendTurn.coreStep hcore
  · exact h.spendTurn.envStep henv

end Sys2Proof.Machine
end

section
/-! Proofs of two statements about the engines: canonical memories (R30) and the conveyor after any
deliveries (R111). -/

namespace Sys2Proof.Machine

/-! ## Data memory -/

/-- The tail of a canonical memory is canonical, and its addresses lie above the head's. -/
theorem Memory.wf_cons {c : Nat × Int} {m : Memory} (h : Memory.wf (c :: m)) :
    (∀ d ∈ m, c.1 < d.1) ∧ c.2 ≠ 0 ∧ Memory.wf m := by
  obtain ⟨hsorted, hnonzero⟩ := h
  obtain ⟨hbelow, htail⟩ := List.pairwise_cons.mp hsorted
  exact ⟨hbelow, hnonzero c List.mem_cons_self, htail,
    fun d hd => hnonzero d (List.mem_cons_of_mem c hd)⟩

theorem Memory.read_cons_self (a : Nat) (v : Int) (m : Memory) : Memory.read ((a, v) :: m) a = v :=
  if_pos rfl

theorem Memory.read_cons_of_ne {a b : Nat} (v : Int) (m : Memory) (h : b ≠ a) :
    Memory.read ((a, v) :: m) b = m.read b := if_neg h

/-- A canonical memory reads no Word but 0 below its first address. -/
theorem Memory.read_cons_of_lt {c : Nat × Int} {m : Memory} (h : Memory.wf (c :: m)) {a : Nat}
    (ha : a < c.1) : Memory.read (c :: m) a = 0 := by
  obtain ⟨hbelow, -, -⟩ := Memory.wf_cons h
  refine Memory.read_eq_zero_of_below fun d hd => ?_
  rcases List.mem_cons.mp hd with rfl | hd
  · exact ha
  · exact Nat.lt_trans ha (hbelow d hd)

/-- The first entry of a canonical memory is seen by a read: where another reads the same everywhere, its
first address is not above. -/
theorem Memory.head_le_of_read_eq {a b : Nat} {v w : Int} {m n : Memory}
    (hm : Memory.wf ((a, v) :: m)) (hn : Memory.wf ((b, w) :: n))
    (hread : Memory.read ((a, v) :: m) a = Memory.read ((b, w) :: n) a) : b ≤ a := by
  obtain ⟨-, hv, -⟩ := Memory.wf_cons hm
  by_contra hlt
  rw [Memory.read_cons_self, Memory.read_cons_of_lt hn (Nat.lt_of_not_le hlt)] at hread
  exact hv hread

/-- Settles O51, by induction on the entries: equal reads give equal first entries, and equal tails. -/
theorem equalReadsMeanEqualMemories : Obligations.EqualReadsMeanEqualMemories := by
  unfold Obligations.EqualReadsMeanEqualMemories
  intro m
  induction m with
  | nil =>
    intro n _ hn hread
    match n with
    | [] => rfl
    | (b, w) :: n =>
      obtain ⟨-, hw, -⟩ := Memory.wf_cons hn
      exact absurd ((hread b).trans (Memory.read_cons_self b w n)).symm hw
  | cons c m ih =>
    obtain ⟨a, v⟩ := c
    intro n hm hn hread
    obtain ⟨hbelowM, hv, htailM⟩ := Memory.wf_cons hm
    match n with
    | [] => exact absurd ((Memory.read_cons_self a v m).symm.trans (hread a)) hv
    | (b, w) :: n =>
      obtain ⟨hbelowN, -, htailN⟩ := Memory.wf_cons hn
      obtain rfl : a = b := Nat.le_antisymm (Memory.head_le_of_read_eq hn hm (hread b).symm)
        (Memory.head_le_of_read_eq hm hn (hread a))
      obtain rfl : v = w := by simpa only [Memory.read_cons_self] using hread a
      have htail : ∀ d, Memory.read m d = Memory.read n d := by
        intro d
        by_cases hd : d = a
        · rw [hd, Memory.read_eq_zero_of_below hbelowM, Memory.read_eq_zero_of_below hbelowN]
        · simpa only [Memory.read_cons_of_ne _ _ hd] using hread d
      rw [ih n htailM htailN htail]

/-! ## The conveyor -/

/-- A delivery pushes two entries onto the front of sixteen and cuts off what no longer fits (R110). -/
theorem deliver_conveyor_eq_take (v w : Int) {s : State} (h : s.conveyor.length = 16) :
    (deliver v w s).conveyor = ([v, w] ++ s.conveyor).take 16 := by
  rw [deliver_conveyor, List.dropLast_eq_take, List.dropLast_eq_take, List.take_take,
    List.length_take, h]
  rfl

/-- What is cut off a list does not come back when more is put in front of it and cut off again. -/
theorem take_append_take {α : Type} (front l : List α) (n : Nat) :
    (front ++ l.take n).take n = (front ++ l).take n := by
  rw [List.take_append, List.take_append, List.take_take, Nat.min_eq_left (Nat.sub_le _ _)]

/-- The conveyor after any deliveries, from any sixteen entries (R111). -/
theorem foldl_deliver_conveyor (ds : List (Int × Int)) (s : State) (h : s.conveyor.length = 16) :
    (ds.foldl (fun (u : State) (d : Int × Int) => deliver d.1 d.2 u) s).conveyor =
      (ds.reverse.flatMap (fun (d : Int × Int) => [d.1, d.2]) ++ s.conveyor).take 16 := by
  induction ds generalizing s with
  | nil => exact (List.take_of_length_le h.le).symm
  | cons d ds ih =>
    have hlength : (deliver d.1 d.2 s).conveyor.length = 16 := by
      rw [deliver_conveyor_length d.1 d.2 (by omega), h]
    rw [List.foldl_cons, ih _ hlength, deliver_conveyor_eq_take d.1 d.2 h, take_append_take]
    simp

/-- Settles O56: the deliveries from sixteen zeros. -/
theorem conveyorHoldsTheEightLatestDeliveries : Obligations.ConveyorHoldsTheEightLatestDeliveries := by
  unfold Obligations.ConveyorHoldsTheEightLatestDeliveries
  intro s ds h
  rw [foldl_deliver_conveyor ds s (by rw [h, List.length_replicate]), h]

end Sys2Proof.Machine
end
